-- ==== Sys2Proof/Word.lean ====
section
/-! DEFINITION. The two word types of QR-CORE: the 32-bit bus word (rule R9) and the 8-bit byte or codeword. -/

namespace Sys2Proof

/-- The host bus word, 32 bits (rule R9). -/
abbrev Word := BitVec 32

/-- A byte of a buffer, a codeword, or an element of GF(256) (rules R17, R37). -/
abbrev Byte := BitVec 8

end Sys2Proof
end

