-- ==== Sys2Proof/Config.lean ====
section
/-! DEFINITION. What is fixed for the machine (rules R3, R9) and the free values the spec leaves open
(rules R330, R342, R345), each an opaque constant with no body. -/

namespace Sys2Proof.Config

/-- The identification value, ASCII "QRC1" (rules R3, R24). -/
def idValue : Word := 0x51524331#32

/-- E_SET, the error-codeword counts that have a generator (rules R9, R65). -/
def eSet : List Nat := [7, 10, 13, 15, 16, 17, 18, 22, 26, 28, 36, 44]

/-- The size of TEXT in bytes, which is also the longest text a stage reads (rules R9, R172). -/
def textBytes : Nat := 128

/-- The size of DATA in bytes, which is also the longest message of RSENC (rules R9, R150). -/
def dataBytes : Nat := 64

/-- The size of STREAM in bytes, 576 bits (rule R9). -/
def streamBytes : Nat := 72

/-- Rows of a matrix buffer and bits of a row (rule R38). -/
def rowCount : Nat := 29

/-- FREE VALUE (rule R330): what an unspecified byte shows. The first argument is the draw it belongs to
(0 from power-on, one more for each soft reset that made the buffer unspecified again), the second
the byte's offset in the window. DESIGN CHOICE of form, safe: log entry 2. -/
opaque unspecifiedByte : Nat → Nat → Byte

/-- FREE VALUE (rule R342): what the n-th read made while BUSY returns, for an offset whose value is
not exact then. DESIGN CHOICE of form, safe: log entry 3. -/
opaque busyRead : Nat → Word

/-- FREE VALUE (rule R345): how many moves of the host come between the acceptance of a command and its
completion. DESIGN CHOICE of form, safe: log entry 4. -/
opaque latency : Nat → Nat

end Sys2Proof.Config
end

