-- ==== Sys2Proof/Syntax.lean ====
section
/-! DEFINITION. The twelve commands of QRC-1, one constructor per row of spec/opcode_table.json (rule R102). -/

namespace Sys2Proof

/-- A command of QRC-1 with its operand fields A and B (rules R101, R102). -/
inductive Instr where
  | nop
  /-- GF(256) product of two elements (rule R131). -/
  | gfmul (a b : Byte)
  /-- Discrete logarithm of an element (rule R132). -/
  | gflog (a : Byte)
  /-- Antilogarithm of an exponent (rule R133). -/
  | gfexp (e : Byte)
  /-- Reed-Solomon encoding of one block: message length k, error-codeword count E (rule R150). -/
  | rsenc (k e : Byte)
  /-- Version and mode selection; the level is an ASCII byte (rule R170). -/
  | select (level : Byte)
  | bitstr
  | eccil
  | build
  | masksc
  | fmt
  /-- The whole pipeline; the level is an ASCII byte (rule R280). -/
  | encode (level : Byte)
deriving DecidableEq, Repr

/-- The pipeline commands: SELECT, BITSTR, ECCIL, BUILD, MASKSC, FMT and ENCODE (rule R102). -/
def Instr.isPipeline : Instr → Bool
  | .nop => false
  | .gfmul _ _ => false
  | .gflog _ => false
  | .gfexp _ => false
  | .rsenc _ _ => false
  | .select _ => true
  | .bitstr => true
  | .eccil => true
  | .build => true
  | .masksc => true
  | .fmt => true
  | .encode _ => true

end Sys2Proof
end

