-- ==== Sys2Proof/WellFormed.lean ====
section
/-! DEFINITION. Which 32-bit words are commands (the field checks of rules R102, R103 and R106), and which
operand values are in the range a command's own rule asks for (rules R150, R132, R171).
An operand is a BitVec 8, so every term of Instr fits its encoding and no further check on it is needed. -/

namespace Sys2Proof

namespace CommandWord

/-- OPC, bits 7..0 (rule R100). -/
def opc (w : Word) : Byte := w.extractLsb' 0 8
/-- A, bits 15..8 (rule R100). -/
def fieldA (w : Word) : Byte := w.extractLsb' 8 8
/-- B, bits 23..16 (rule R100). -/
def fieldB (w : Word) : Byte := w.extractLsb' 16 8
/-- C, bits 31..24 (rule R100). -/
def fieldC (w : Word) : Byte := w.extractLsb' 24 8

/-- The twelve defined opcodes (rules R102, R106). -/
def definedOpcodes : List Byte :=
  [0x00, 0x01, 0x02, 0x03, 0x10, 0x20, 0x21, 0x22, 0x23, 0x24, 0x25, 0x2F]

/-- The opcodes whose A field is an operand (rule R102). -/
def opcodesUsingA : List Byte := [0x01, 0x02, 0x03, 0x10, 0x20, 0x2F]

/-- The opcodes whose B field is an operand (rule R102). -/
def opcodesUsingB : List Byte := [0x01, 0x10]

/-- A word is a command iff its opcode is defined and every field its row shows as 0 is zero (rule R103). -/
def wellFormed (w : Word) : Bool :=
  fieldC w == 0
    && definedOpcodes.contains (opc w)
    && (opcodesUsingA.contains (opc w) || fieldA w == 0)
    && (opcodesUsingB.contains (opc w) || fieldB w == 0)

end CommandWord

/-- The level bytes, upper and lower case (rule R171). -/
def levelBytes : List Byte := [0x4C, 0x6C, 0x4D, 0x6D, 0x51, 0x71, 0x48, 0x68]

/-- The operand values a command's rule accepts: an element with a logarithm (R132), a message length and
an error-codeword count in range (R150), a level letter (R171). A command outside this range is
still a command: it completes with IllegalOperand or InvalidLevel. -/
def Instr.operandsInRange : Instr → Bool
  | .nop => true
  | .gfmul _ _ => true
  | .gflog a => a != 0
  | .gfexp _ => true
  | .rsenc k e => decide (1 ≤ k.toNat) && decide (k.toNat ≤ Config.dataBytes) && Config.eSet.contains e.toNat
  | .select lc => levelBytes.contains lc
  | .bitstr => true
  | .eccil => true
  | .build => true
  | .masksc => true
  | .fmt => true
  | .encode lc => levelBytes.contains lc

end Sys2Proof
end

