-- ==== Sys2Proof/Decode.lean ====
section
/-! DEFINITION. The decoder of command words (rule R103), total on 32 bits and refusing by name, and the
encoder (rule R108). -/

namespace Sys2Proof

/-- Why a word is illegal (rules R103, R106). The machine treats all four alike: IllegalCommand. -/
inductive DecodeError where
  /-- C, bits 31..24, is not zero. -/
  | reservedFieldNonzero
  /-- The opcode is none of the twelve. -/
  | reservedOpcode (opc : Byte)
  /-- A is not zero in a command that has no operand A. -/
  | unusedANonzero (opc : Byte)
  /-- B is not zero in a command that has no operand B. -/
  | unusedBNonzero (opc : Byte)
deriving DecidableEq, Repr

/-- A command without operands: A and B must be 0. -/
def decodeNone (opc a b : Byte) (i : Instr) : Except DecodeError Instr :=
  if a ≠ 0 then .error (.unusedANonzero opc)
  else if b ≠ 0 then .error (.unusedBNonzero opc)
  else .ok i

/-- A command with operand A only: B must be 0. -/
def decodeA (opc b : Byte) (i : Instr) : Except DecodeError Instr :=
  if b ≠ 0 then .error (.unusedBNonzero opc) else .ok i

/-- The opcode map (rule R102) once C is known to be 0. -/
def decodeFields (opc a b : Byte) : Except DecodeError Instr :=
  if opc = 0x00 then decodeNone opc a b .nop
  else if opc = 0x01 then .ok (.gfmul a b)
  else if opc = 0x02 then decodeA opc b (.gflog a)
  else if opc = 0x03 then decodeA opc b (.gfexp a)
  else if opc = 0x10 then .ok (.rsenc a b)
  else if opc = 0x20 then decodeA opc b (.select a)
  else if opc = 0x21 then decodeNone opc a b .bitstr
  else if opc = 0x22 then decodeNone opc a b .eccil
  else if opc = 0x23 then decodeNone opc a b .build
  else if opc = 0x24 then decodeNone opc a b .masksc
  else if opc = 0x25 then decodeNone opc a b .fmt
  else if opc = 0x2F then decodeA opc b (.encode a)
  else .error (.reservedOpcode opc)

/-- The decoder of rule R103. -/
def decode (w : Word) : Except DecodeError Instr :=
  if CommandWord.fieldC w ≠ 0 then .error .reservedFieldNonzero
  else decodeFields (CommandWord.opc w) (CommandWord.fieldA w) (CommandWord.fieldB w)

/-- The assembled word: zext_32(opc) | (A << 8) | (B << 16) (rule R108). -/
def assemble (opc a b : Byte) : Word :=
  opc.setWidth 32 ||| (a.setWidth 32 <<< 8) ||| (b.setWidth 32 <<< 16)

/-- The word of a command (rules R101, R102, R108). -/
def encode : Instr → Word
  | .nop => assemble 0x00 0 0
  | .gfmul a b => assemble 0x01 a b
  | .gflog a => assemble 0x02 a 0
  | .gfexp e => assemble 0x03 e 0
  | .rsenc k e => assemble 0x10 k e
  | .select lc => assemble 0x20 lc 0
  | .bitstr => assemble 0x21 0 0
  | .eccil => assemble 0x22 0 0
  | .build => assemble 0x23 0 0
  | .masksc => assemble 0x24 0 0
  | .fmt => assemble 0x25 0 0
  | .encode lc => assemble 0x2F lc 0

/-- The decoder on an opcode-table word of nbits bits, the bits above nbits being 0. A command is one
32-bit word (rule R107), so its bits are the table's bits. -/
def decodeTableWord (nbits w : Nat) : Option Instr :=
  if nbits ≤ 32 then (decode (BitVec.ofNat 32 (w % 2 ^ nbits))).toOption else none

end Sys2Proof
end

