-- ==== Sys2Proof/Machine/State.lean ====
section
/-! DEFINITION. The state of QR-CORE (rules R20 to R43): every register, buffer and hidden piece of state the
spec names, the host agent's accesses, and the counters of the free values. Plain data. -/

namespace Sys2Proof.Machine

/-- The symbol versions in scope (rule R4). -/
inductive Version where
  | v1 | v2 | v3
deriving DecidableEq, Repr

/-- The encoding modes in scope (rule R4). -/
inductive Mode where
  | numeric | alphanumeric
deriving DecidableEq, Repr

/-- The error-correction levels, in the order of their codes 0..3 (rules R4, R29). -/
inductive Level where
  | levelL | levelM | levelQ | levelH
deriving DecidableEq, Repr

/-- The fault codes 1..7 of STATUS.ERRCODE (rule R301). These are recorded, they stop nothing. -/
inductive FaultCode where
  | capacityExceeded
  | invalidCharacter
  | invalidLevel
  | tableInconsistency
  | illegalCommand
  | illegalOperand
  | sequenceError
deriving DecidableEq, Repr

/-- SEL: the selector's outputs (rule R29). No version selected is `none`, code 0. -/
structure Sel where
  version : Option Version
  mode : Mode
  level : Level
deriving DecidableEq, Repr

/-- INFLIGHT when it is not none: the accepted word and the RS_CLEAN bit latched with it (rule R40). -/
structure InFlight where
  word : Word
  clean : Bool
deriving DecidableEq, Repr

/-- The buffers of the register window (rules R37, R38). -/
inductive Buffer where
  | text | data | ecc | stream | base | out
  | cand (m : Fin 8)
deriving DecidableEq, Repr

/-- For each buffer a command can write, the draw its unspecified cells show (rule R330). CAND[0..7] are
always made unspecified together (rule R333); TEXT is written by no command and stays at its power-on draw. -/
structure Epochs where
  data : Nat
  ecc : Nat
  stream : Nat
  base : Nat
  cand : Nat
  out : Nat
deriving DecidableEq, Repr

/-- One access of the host (rules R16, R81): its width in bits, its byte offset, the value written. -/
inductive BusAccess where
  | read (width offset : Nat)
  | write (width offset : Nat) (value : Word)
deriving DecidableEq, Repr

/-- What the bus answers to an access (rules R16, R308). -/
inductive BusAnswer where
  /-- A read's value. -/
  | data (value : Word)
  /-- A write was performed. -/
  | accepted
  /-- The access was refused; it had no effect (rule R308). -/
  | busError
deriving DecidableEq, Repr

/-- Reasons the machine would stop with a fault: NONE. A command fault is recorded in STATUS and the core
goes on (rules R300, R304); a bus error is an answer to one access (rule R308); no rule halts the
machine. Nothing raises one, which is safe: log entry 6. -/
inductive Fault where
deriving DecidableEq, Repr

/-- Reasons an instruction is refused. -/
inductive Refusal where
  /-- An instruction that has no meaning yet, by its mnemonic: raised by an arm of exec only. Every
  command has a meaning, so nothing raises it. Safe. -/
  | notModelled (mnemonic : String)
deriving DecidableEq, Repr

/-- Window memory: (offset, byte) cells at strictly rising offsets, one for each SPECIFIED byte of a
buffer. An offset of a buffer that is not listed is an unspecified cell (rules R42, R43, R330). -/
abbrev Memory := List Host.Cell

/-- The machine (rule R43), and after it the host agent and the free-value counters. -/
structure State where
  /-- CTRL.RS_CLEAN (rule R23). -/
  rsClean : Bool
  /-- STATUS.DONE (rule R25). -/
  done : Bool
  /-- STATUS.ERR (rule R25). -/
  err : Bool
  /-- STATUS.OUT_VALID (rules R25, R36). -/
  outValid : Bool
  /-- STATUS.ERRCODE, none being code 0 (rules R25, R301). -/
  errcode : Option FaultCode
  /-- STATUS.LAST_OP (rule R25). -/
  lastOp : Byte
  /-- CMD, the last accepted word (rule R26). -/
  cmd : Word
  /-- RESULT (rule R27). -/
  result : BitVec 16
  /-- TEXT_LEN (rule R28). -/
  textLen : Byte
  /-- SEL (rule R29). -/
  sel : Sel
  /-- WINNER.MASK (rule R30). -/
  winnerMask : Fin 8
  /-- WINNER.VALID (rule R30). -/
  winnerValid : Bool
  /-- SCORE[0..7] (rule R31). -/
  score : Vector Word 8
  /-- FORMAT (rule R32). -/
  format : BitVec 15
  /-- STREAM_LEN (rule R34). -/
  streamLen : BitVec 10
  /-- TEXT, DATA, ECC, STREAM, BASE, OUT and CAND (rules R37, R38). -/
  mem : Memory
  /-- INFLIGHT; STATUS.BUSY is 1 exactly when it is not none (rule R40). -/
  inflight : Option InFlight
  /-- MODEL'S OWN: the draw each buffer's unspecified cells show (rule R330, log entry 2). -/
  epochs : Epochs
  /-- MODEL'S OWN: draws used so far (rules R342, R345, log entries 3 and 4). -/
  draws : Nat
  /-- MODEL'S OWN: moves of the host left before the command in flight completes (rule R345, log entry 4). -/
  latency : Nat
  /-- MODEL'S OWN: the host's accesses not yet performed, in program order (rule R85, log entry 5). -/
  bus : List BusAccess
  /-- MODEL'S OWN: the bus's answer to the latest access (rule R16, log entry 5). -/
  answer : Option BusAnswer
deriving DecidableEq, Repr

/-- The machine after power-on reset (rules R42, R331): every register at its reset value, nothing in
flight, every buffer cell unspecified; the host has asked for nothing yet. -/
def State.reset : State where
  rsClean := false
  done := false
  err := false
  outValid := false
  errcode := none
  lastOp := 0
  cmd := 0
  result := 0
  textLen := 0
  sel := { version := none, mode := .numeric, level := .levelL }
  winnerMask := 0
  winnerValid := false
  score := Vector.replicate 8 0
  format := 0
  streamLen := 0
  mem := []
  inflight := none
  epochs := { data := 0, ecc := 0, stream := 0, base := 0, cand := 0, out := 0 }
  draws := 0
  latency := 0
  bus := []
  answer := none

end Sys2Proof.Machine
end

