-- ==== Sys2Proof/Machine/Ops.lean ====
section
/-! DEFINITION. The named operations every command is written with: the window memory (rules R37, R38, R80,
R330), matrices as 29 row words (rule R38), the command cycle (rules R104, R105), taking a fault
(rule R300) and running stages one after another (rules R280, R302). -/

namespace Sys2Proof.Machine

/-! ### The buffers of the window -/

/-- The offset of a buffer's first byte (the table of 10_state section 3). -/
def Buffer.start : Buffer → Nat
  | .text => 0x100
  | .data => 0x200
  | .ecc => 0x240
  | .stream => 0x300
  | .base => 0x400
  | .out => 0x500
  | .cand m => 0x600 + 0x80 * m.val

/-- The size of a buffer in bytes (rules R37, R38). -/
def Buffer.size : Buffer → Nat
  | .text => Config.textBytes
  | .data => Config.dataBytes
  | .ecc => 64
  | .stream => Config.streamBytes
  | .base => 4 * Config.rowCount
  | .out => 4 * Config.rowCount
  | .cand _ => 4 * Config.rowCount

/-- The matrix buffers, whose words are 29-bit rows (rule R38). -/
def Buffer.isMatrix : Buffer → Bool
  | .text => false
  | .data => false
  | .ecc => false
  | .stream => false
  | .base => true
  | .out => true
  | .cand _ => true

/-- The buffers the host may write: all but OUT and CAND (the table of 10_state section 3). -/
def Buffer.hostWritable : Buffer → Bool
  | .text => true
  | .data => true
  | .ecc => true
  | .stream => true
  | .base => true
  | .out => false
  | .cand _ => false

/-- The eight candidate buffers. -/
def candBuffers : List Buffer :=
  [.cand 0, .cand 1, .cand 2, .cand 3, .cand 4, .cand 5, .cand 6, .cand 7]

/-- Every buffer of the window. -/
def allBuffers : List Buffer :=
  [.text, .data, .ecc, .stream, .base, .out] ++ candBuffers

/-- Whether a byte offset lies in a buffer. -/
def Buffer.holds (b : Buffer) (a : Nat) : Bool :=
  decide (b.start ≤ a) && decide (a < b.start + b.size)

/-- The buffer a byte offset lies in, if any (rule R83). -/
def bufferAt (a : Nat) : Option Buffer :=
  allBuffers.find? (fun b => b.holds a)

/-! ### The window memory -/

/-- The draw a buffer's unspecified cells show (rule R330). -/
def Epochs.of (e : Epochs) : Buffer → Nat
  | .text => 0
  | .data => e.data
  | .ecc => e.ecc
  | .stream => e.stream
  | .base => e.base
  | .out => e.out
  | .cand _ => e.cand

/-- The next draw for one buffer's unspecified cells (rules R330, R332). -/
def Epochs.bump (e : Epochs) : Buffer → Epochs
  | .text => e
  | .data => { e with data := e.data + 1 }
  | .ecc => { e with ecc := e.ecc + 1 }
  | .stream => { e with stream := e.stream + 1 }
  | .base => { e with base := e.base + 1 }
  | .out => { e with out := e.out + 1 }
  | .cand _ => { e with cand := e.cand + 1 }

/-- Bits 31..29 of a matrix row read 0 (rule R38): of the row's fourth byte only bits 4..0 exist. -/
def clipByte (a : Nat) (v : Byte) : Byte :=
  match bufferAt a with
  | some b => if b.isMatrix && a % 4 == 3 then v &&& 0x1F else v
  | none => v

/-- What a byte offset that is not listed reads as: the free value of an unspecified cell (rule R330). -/
def unlistedByte (e : Epochs) (a : Nat) : Byte :=
  match bufferAt a with
  | some b => clipByte a (Config.unspecifiedByte (e.of b) a)
  | none => 0

/-- The listed byte at an offset. -/
def Memory.lookup (m : Memory) (a : Nat) : Option Byte :=
  (m.find? (fun c => c.1 == a)).map (fun c => c.2)

/-- The cells of a run of bytes that starts at an offset. -/
def cellsAt : Nat → List Byte → Memory
  | _, [] => []
  | a, v :: vs => (a, v) :: cellsAt (a + 1) vs

/-- The run of bytes at a..a+len becomes unspecified. -/
def Memory.forget (m : Memory) (a len : Nat) : Memory :=
  m.filter (fun c => decide (c.1 < a)) ++ m.filter (fun c => decide (a + len ≤ c.1))

/-- The run of bytes vs is written at a. -/
def Memory.write (m : Memory) (a : Nat) (vs : List Byte) : Memory :=
  m.filter (fun c => decide (c.1 < a)) ++ cellsAt a vs
    ++ m.filter (fun c => decide (a + vs.length ≤ c.1))

/-- A cell the window can hold: its offset is in a buffer, and a matrix row's bits 31..29 are 0. -/
def cellOk (c : Host.Cell) : Bool :=
  (bufferAt c.1).isSome && c.2 == clipByte c.1 c.2

/-- The canonical form: offsets strictly rising, every cell one the window can hold. -/
def Memory.wf : Memory → Bool
  | [] => true
  | [c] => cellOk c
  | c :: d :: rest => cellOk c && decide (c.1 < d.1) && Memory.wf (d :: rest)

/-- The byte at an offset: the listed one, else the unspecified cell's free value. -/
def State.readByte (s : State) (a : Nat) : Byte :=
  (Memory.lookup s.mem a).getD (unlistedByte s.epochs a)

/-- The n bytes from an offset. -/
def State.readBytes (s : State) (a n : Nat) : List Byte :=
  (List.range n).map (fun i => s.readByte (a + i))

/-- The n bytes of a buffer from its first. -/
def State.readBuffer (s : State) (b : Buffer) (n : Nat) : List Byte :=
  s.readBytes b.start n

/-- Write a run of bytes at an offset. -/
def State.writeBytes (s : State) (a : Nat) (vs : List Byte) : State :=
  { s with mem := Memory.write s.mem a vs }

/-- The 32-bit word of four bytes, the lowest offset in bits 7..0 (rule R80). -/
def wordOfBytes (b0 b1 b2 b3 : Byte) : Word :=
  b0.setWidth 32 ||| (b1.setWidth 32 <<< 8) ||| (b2.setWidth 32 <<< 16) ||| (b3.setWidth 32 <<< 24)

/-- The four bytes of a word, bits 7..0 first (rule R80). -/
def bytesOfWord (w : Word) : List Byte :=
  [w.extractLsb' 0 8, w.extractLsb' 8 8, w.extractLsb' 16 8, w.extractLsb' 24 8]

/-- The word at an offset (rule R80). -/
def State.readWord (s : State) (a : Nat) : Word :=
  wordOfBytes (s.readByte a) (s.readByte (a + 1)) (s.readByte (a + 2)) (s.readByte (a + 3))

/-- Write the word at an offset (rule R80). -/
def State.writeWord (s : State) (a : Nat) (w : Word) : State :=
  s.writeBytes a (bytesOfWord w)

/-- Every cell of a buffer becomes unspecified: a new draw for it (rules R330, R332). -/
def State.unspecify (s : State) (b : Buffer) : State :=
  { s with mem := Memory.forget s.mem b.start b.size, epochs := s.epochs.bump b }

/-! ### Matrices -/

/-- A matrix row: bit c is the module of column c (rule R38). -/
abbrev Row := BitVec 29

/-- A matrix as its row words, row 0 first (rule R38). -/
abbrev Matrix := List Row

/-- Row r. -/
def Matrix.row (m : Matrix) (r : Nat) : Row := m.getD r 0

/-- The module (r, c), dark = true (rule R15). -/
def Matrix.get (m : Matrix) (r c : Nat) : Bool := (Matrix.row m r).getLsbD c

/-- The N×N matrix with module (r, c) equal to f r c; every cell outside N×N is 0 (rule R226). -/
def Matrix.ofCells (n : Nat) (f : Nat → Nat → Bool) : Matrix :=
  (List.range Config.rowCount).map (fun r =>
    BitVec.ofFnLE (fun c : Fin 29 => decide (r < n) && decide (c.val < n) && f r c.val))

/-- The four bytes of a row word, bits 31..29 being 0 (rules R38, R80). -/
def bytesOfRow (r : Row) : List Byte := bytesOfWord (r.setWidth 32)

/-- A matrix buffer's 29 rows (rule R38). -/
def State.readMatrix (s : State) (b : Buffer) : Matrix :=
  (List.range Config.rowCount).map (fun r => (s.readWord (b.start + 4 * r)).setWidth 29)

/-- Write all 29 rows of a matrix buffer (rule R226). -/
def State.writeMatrix (s : State) (b : Buffer) (m : Matrix) : State :=
  s.writeBytes b.start ((List.range Config.rowCount).flatMap (fun r => bytesOfRow (Matrix.row m r)))

/-! ### The command cycle -/

/-- STATUS.BUSY (rule R40). -/
def State.busy (s : State) : Bool := s.inflight.isSome

/-- The RS_CLEAN bit of the command in flight, latched at acceptance (rule R40). With nothing in flight,
which no rule reaches, the bit an acceptance would latch now: DESIGN CHOICE, safe, log entry 8. -/
def State.clean (s : State) : Bool :=
  match s.inflight with
  | some f => f.clean
  | none => s.rsClean

/-- Whether a word decodes to a pipeline command (rule R104). -/
def isPipelineWord (w : Word) : Bool :=
  match decode w with
  | .ok i => i.isPipeline
  | .error _ => false

/-- Acceptance of a word written to CMD while idle (rule R104). -/
def State.accept (s : State) (w : Word) : State :=
  { s with
    cmd := w
    lastOp := CommandWord.opc w
    done := false
    err := false
    errcode := none
    outValid := if isPipelineWord w then false else s.outValid
    inflight := some { word := w, clean := s.rsClean } }

/-- Acceptance by a host write: the latency of the command is the next draw (rules R104, R345). -/
def State.issue (s : State) (w : Word) : State :=
  { s.accept w with latency := Config.latency s.draws, draws := s.draws + 1 }

/-- Completion without fault: DONE is set, nothing is in flight (rule R105). -/
def State.complete (s : State) : State :=
  { s with done := true, inflight := none }

/-- TAKING A FAULT, the one operation every fault goes through (rules R105, R300): ERR and ERRCODE record
it, DONE is left as it is, nothing is in flight any more, and nothing else is saved or changed. -/
def State.takeFault (s : State) (code : FaultCode) : State :=
  { s with err := true, errcode := some code, inflight := none }

/-- How a stage ends: with its writes made, or with a fault and the state it found (rule R302). -/
inductive StageResult where
  | ok (s : State)
  | fault (code : FaultCode) (s : State)
deriving DecidableEq, Repr

/-- The next stage runs only after one that raised no fault (rule R280). -/
def StageResult.andThen (r : StageResult) (next : State → StageResult) : StageResult :=
  match r with
  | .ok s => next s
  | .fault code s => .fault code s

/-- The completion step of rule R105: the machine goes on, with DONE or with the fault recorded. -/
def StageResult.finish (r : StageResult) : Host.Outcome State Fault Refusal :=
  match r with
  | .ok s => .next s.complete
  | .fault code s => .next (s.takeFault code)

/-- An illegal word executes as raise Fault(IllegalCommand) (rules R103, R105). -/
def execIllegal (s : State) : Host.Outcome State Fault Refusal :=
  (StageResult.fault .illegalCommand s).finish

end Sys2Proof.Machine
end

