-- ==== Sys2Proof/Machine/Geometry.lean ====
section
/-! DEFINITION. The geometry of a symbol: its side, the reserved set (rule R216), the fixed patterns (rules R218
to R222), the placement path (rule R75) and the format coordinates (rule R272). -/

namespace Sys2Proof.Machine

/-- The version number 1..3 (rule R29). -/
def Version.num : Version → Nat
  | .v1 => 1
  | .v2 => 2
  | .v3 => 3

/-- N(v) = 4·v + 17, the matrix side (rule R9). -/
def Version.side (v : Version) : Nat := 4 * v.num + 17

/-- The alignment pattern exists for versions above 1 (rule R220). -/
def Version.hasAlignment (v : Version) : Bool := decide (1 < v.num)

/-- Whether cell (r, c) is in the reserved set R(v) (rule R216). -/
def reserved (v : Version) (r c : Nat) : Bool :=
  let n := v.side
  (decide (r ≤ 8) && decide (c ≤ 8))
    || (decide (r ≤ 8) && decide (n - 8 ≤ c))
    || (decide (n - 8 ≤ r) && decide (c ≤ 8))
    || r == 6
    || c == 6
    || (v.hasAlignment && decide (n - 9 ≤ r) && decide (r ≤ n - 5)
          && decide (n - 9 ≤ c) && decide (c ≤ n - 5))

/-- The distance of two indices. -/
def dist (a b : Nat) : Nat := (a - b) + (b - a)

/-- The ring a cell is in around a centre: max(|r − r0|, |c − c0|) (rules R218, R220). -/
def ring (r0 c0 r c : Nat) : Nat := max (dist r r0) (dist c c0)

/-- A dark cell of the 7×7 finder pattern whose corner is (r0, c0): ring 0, 1 or 3 around its centre
(rule R218). -/
def finderDark (r0 c0 r c : Nat) : Bool :=
  let k := ring (r0 + 3) (c0 + 3) r c
  k == 0 || k == 1 || k == 3

/-- A dark cell of the 5×5 alignment pattern centred at (k, k): ring 0 or 2 (rule R220). -/
def alignmentDark (k r c : Nat) : Bool :=
  let d := ring k k r c
  d == 0 || d == 2

/-- A dark timing cell: an even index from 8 to N − 9 along row 6 or column 6 (rule R219). -/
def timingDark (n r c : Nat) : Bool :=
  (r == 6 && decide (8 ≤ c) && decide (c ≤ n - 9) && c % 2 == 0)
    || (c == 6 && decide (8 ≤ r) && decide (r ≤ n - 9) && r % 2 == 0)

/-- The dark module (N − 8, 8) (rule R221, 90_conflicts C1). -/
def darkModule (n r c : Nat) : Bool := r == n - 8 && c == 8

/-- Whether stamp(v) is dark at (r, c) (rule R222; no two patterns share a cell). -/
def stampDark (v : Version) (r c : Nat) : Bool :=
  let n := v.side
  finderDark 0 0 r c || finderDark 0 (n - 7) r c || finderDark (n - 7) 0 r c
    || timingDark n r c
    || (v.hasAlignment && alignmentDark (n - 7) r c)
    || darkModule n r c

/-- stamp(v), the fixed pattern (rule R222). -/
def stamp (v : Version) : Matrix := Matrix.ofCells v.side (stampDark v)

/-- The cells of one row of a column pair, right column first, reserved ones left out (rule R75). -/
def pathRow (v : Version) (right r : Nat) : List (Nat × Nat) :=
  [(r, right), (r, right - 1)].filter (fun p => !reserved v p.1 p.2)

/-- The zig-zag over the column pairs from `right` leftward, the next pair walked upward when `up`
(rule R75). Each pair uses one unit of fuel. -/
def pathFrom (v : Version) : Nat → Nat → Bool → List (Nat × Nat)
  | 0, _, _ => []
  | fuel + 1, right, up =>
    if right = 0 then []
    else
      let right := if right = 6 then 5 else right
      let rows := if up then (List.range v.side).reverse else List.range v.side
      rows.flatMap (pathRow v right) ++ pathFrom v fuel (right - 2) (!up)

/-- PATH[v] (rule R75): stream bit i goes to cell PATH[v][i]. -/
def path (v : Version) : List (Nat × Nat) := pathFrom v v.side (v.side - 1) true

/-- len(PATH[v]) (rules R35, R75). -/
def pathLength (v : Version) : Nat := (path v).length

/-- Copy A of format bit i, around the top-left finder (rule R272). -/
def formatCellA (i : Nat) : Nat × Nat :=
  if i ≤ 5 then (i, 8)
  else if i = 6 then (7, 8)
  else if i = 7 then (8, 8)
  else if i = 8 then (8, 7)
  else (8, 14 - i)

/-- Copy B of format bit i, at the top right and the bottom left (rule R272). -/
def formatCellB (n i : Nat) : Nat × Nat :=
  if i ≤ 7 then (8, n - 1 - i) else (n - 15 + i, 8)

end Sys2Proof.Machine
end

