-- ==== Sys2Proof/Machine/Rom.lean ====
section
/-! DEFINITION. The ROMs of QR-CORE: EXP, LOG, GEN, the codeword, block and capacity tables, ALNUM and FMTROM
(rules R61 to R72). They are transcribed from the spec's tables. -/

namespace Sys2Proof.Machine

/-! ### GF(256) tables -/

/-- EXP, the antilog table: entry e is α^e for e in 0..254 (rule R62). -/
def expRom : List Byte :=
  [0x01, 0x02, 0x04, 0x08, 0x10, 0x20, 0x40, 0x80, 0x1D, 0x3A, 0x74, 0xE8, 0xCD, 0x87, 0x13, 0x26] ++
  [0x4C, 0x98, 0x2D, 0x5A, 0xB4, 0x75, 0xEA, 0xC9, 0x8F, 0x03, 0x06, 0x0C, 0x18, 0x30, 0x60, 0xC0] ++
  [0x9D, 0x27, 0x4E, 0x9C, 0x25, 0x4A, 0x94, 0x35, 0x6A, 0xD4, 0xB5, 0x77, 0xEE, 0xC1, 0x9F, 0x23] ++
  [0x46, 0x8C, 0x05, 0x0A, 0x14, 0x28, 0x50, 0xA0, 0x5D, 0xBA, 0x69, 0xD2, 0xB9, 0x6F, 0xDE, 0xA1] ++
  [0x5F, 0xBE, 0x61, 0xC2, 0x99, 0x2F, 0x5E, 0xBC, 0x65, 0xCA, 0x89, 0x0F, 0x1E, 0x3C, 0x78, 0xF0] ++
  [0xFD, 0xE7, 0xD3, 0xBB, 0x6B, 0xD6, 0xB1, 0x7F, 0xFE, 0xE1, 0xDF, 0xA3, 0x5B, 0xB6, 0x71, 0xE2] ++
  [0xD9, 0xAF, 0x43, 0x86, 0x11, 0x22, 0x44, 0x88, 0x0D, 0x1A, 0x34, 0x68, 0xD0, 0xBD, 0x67, 0xCE] ++
  [0x81, 0x1F, 0x3E, 0x7C, 0xF8, 0xED, 0xC7, 0x93, 0x3B, 0x76, 0xEC, 0xC5, 0x97, 0x33, 0x66, 0xCC] ++
  [0x85, 0x17, 0x2E, 0x5C, 0xB8, 0x6D, 0xDA, 0xA9, 0x4F, 0x9E, 0x21, 0x42, 0x84, 0x15, 0x2A, 0x54] ++
  [0xA8, 0x4D, 0x9A, 0x29, 0x52, 0xA4, 0x55, 0xAA, 0x49, 0x92, 0x39, 0x72, 0xE4, 0xD5, 0xB7, 0x73] ++
  [0xE6, 0xD1, 0xBF, 0x63, 0xC6, 0x91, 0x3F, 0x7E, 0xFC, 0xE5, 0xD7, 0xB3, 0x7B, 0xF6, 0xF1, 0xFF] ++
  [0xE3, 0xDB, 0xAB, 0x4B, 0x96, 0x31, 0x62, 0xC4, 0x95, 0x37, 0x6E, 0xDC, 0xA5, 0x57, 0xAE, 0x41] ++
  [0x82, 0x19, 0x32, 0x64, 0xC8, 0x8D, 0x07, 0x0E, 0x1C, 0x38, 0x70, 0xE0, 0xDD, 0xA7, 0x53, 0xA6] ++
  [0x51, 0xA2, 0x59, 0xB2, 0x79, 0xF2, 0xF9, 0xEF, 0xC3, 0x9B, 0x2B, 0x56, 0xAC, 0x45, 0x8A, 0x09] ++
  [0x12, 0x24, 0x48, 0x90, 0x3D, 0x7A, 0xF4, 0xF5, 0xF7, 0xF3, 0xFB, 0xEB, 0xCB, 0x8B, 0x0B, 0x16] ++
  [0x2C, 0x58, 0xB0, 0x7D, 0xFA, 0xE9, 0xCF, 0x83, 0x1B, 0x36, 0x6C, 0xD8, 0xAD, 0x47, 0x8E]

/-- LOG, the log table, indexed by an element; entry 0 holds 0 and its readers treat element 0 themselves
(rule R63, 90_conflicts C11). -/
def logRom : List Nat :=
  [0, 0, 1, 25, 2, 50, 26, 198, 3, 223, 51, 238, 27, 104, 199, 75] ++
  [4, 100, 224, 14, 52, 141, 239, 129, 28, 193, 105, 248, 200, 8, 76, 113] ++
  [5, 138, 101, 47, 225, 36, 15, 33, 53, 147, 142, 218, 240, 18, 130, 69] ++
  [29, 181, 194, 125, 106, 39, 249, 185, 201, 154, 9, 120, 77, 228, 114, 166] ++
  [6, 191, 139, 98, 102, 221, 48, 253, 226, 152, 37, 179, 16, 145, 34, 136] ++
  [54, 208, 148, 206, 143, 150, 219, 189, 241, 210, 19, 92, 131, 56, 70, 64] ++
  [30, 66, 182, 163, 195, 72, 126, 110, 107, 58, 40, 84, 250, 133, 186, 61] ++
  [202, 94, 155, 159, 10, 21, 121, 43, 78, 212, 229, 172, 115, 243, 167, 87] ++
  [7, 112, 192, 247, 140, 128, 99, 13, 103, 74, 222, 237, 49, 197, 254, 24] ++
  [227, 165, 153, 119, 38, 184, 180, 124, 17, 68, 146, 217, 35, 32, 137, 46] ++
  [55, 63, 209, 91, 149, 188, 207, 205, 144, 135, 151, 178, 220, 252, 190, 97] ++
  [242, 86, 211, 171, 20, 42, 93, 158, 132, 60, 57, 83, 71, 109, 65, 162] ++
  [31, 45, 67, 216, 183, 123, 164, 118, 196, 23, 73, 236, 127, 12, 111, 246] ++
  [108, 161, 59, 82, 41, 157, 85, 170, 251, 96, 134, 177, 187, 204, 62, 90] ++
  [203, 89, 95, 176, 156, 169, 160, 81, 11, 245, 22, 235, 122, 117, 44, 215] ++
  [79, 174, 213, 233, 230, 231, 173, 232, 116, 214, 244, 234, 168, 80, 88, 175]

/-- EXP[e], for e in 0..254 (rule R62). -/
def expOf (e : Nat) : Byte := expRom.getD e 0

/-- LOG[a], for a ≠ 0 (rule R63). -/
def logOf (a : Byte) : Nat := logRom.getD a.toNat 0

/-! ### Generator polynomials -/

/-- GEN[E]: the exponents of the degree-E generator's coefficients, leading first (rule R65). -/
def genPoly (e : Nat) : List Nat :=
  if e = 7 then
    [0, 87, 229, 146, 149, 238, 102, 21]
  else if e = 10 then
    [0, 251, 67, 46, 61, 118, 70, 64, 94, 32, 45]
  else if e = 13 then
    [0, 74, 152, 176, 100, 86, 100, 106, 104, 130, 218, 206, 140, 78]
  else if e = 15 then
    [0, 8, 183, 61, 91, 202, 37, 51, 58, 58, 237, 140, 124, 5, 99, 105]
  else if e = 16 then
    [0, 120, 104, 107, 109, 102, 161, 76, 3, 91, 191, 147, 169, 182, 194, 225, 120]
  else if e = 17 then
    [0, 43, 139, 206, 78, 43, 239, 123, 206, 214, 147, 24, 99, 150, 39, 243, 163, 136]
  else if e = 18 then
    [0, 215, 234, 158, 94, 184, 97, 118, 170, 79, 187, 152, 148, 252, 179, 5, 98, 96, 153]
  else if e = 22 then
    [0, 210, 171, 247, 242, 93, 230, 14, 109, 221, 53, 200, 74, 8, 172, 98, 80, 219, 134, 160, 105, 165, 231]
  else if e = 26 then
    [0, 173, 125, 158, 2, 103, 182, 118, 17, 145, 201, 111, 28, 165, 53, 161, 21, 245, 142, 13, 102, 48, 227, 153,
      145, 218, 70]
  else if e = 28 then
    [0, 168, 223, 200, 104, 224, 234, 108, 180, 110, 190, 195, 147, 205, 27, 232, 201, 21, 43, 245, 87, 42, 195, 212,
      119, 242, 37, 9, 123]
  else if e = 36 then
    [0, 200, 183, 98, 16, 172, 31, 246, 234, 60, 152, 115, 0, 167, 152, 113, 248, 238, 107, 18, 63, 218, 37, 87,
      210, 105, 177, 120, 74, 121, 196, 117, 251, 113, 233, 30, 120]
  else if e = 44 then
    [0, 190, 7, 61, 121, 71, 246, 69, 55, 168, 188, 89, 243, 191, 25, 72, 123, 9, 145, 14, 247, 1, 238, 44,
      78, 143, 62, 224, 126, 118, 114, 68, 163, 52, 194, 217, 147, 204, 169, 37, 130, 113, 102, 73, 181]
  else []

/-! ### Codeword, block and capacity tables -/

/-- DataCodewords(v, l) (rule R66). -/
def dataCodewords : Version → Level → Nat
  | .v1, .levelL => 19 | .v1, .levelM => 16 | .v1, .levelQ => 13 | .v1, .levelH => 9
  | .v2, .levelL => 34 | .v2, .levelM => 28 | .v2, .levelQ => 22 | .v2, .levelH => 16
  | .v3, .levelL => 55 | .v3, .levelM => 44 | .v3, .levelQ => 34 | .v3, .levelH => 26

/-- ErrorCodewords(v, l), over all blocks (rule R67). -/
def errorCodewords : Version → Level → Nat
  | .v1, .levelL => 7 | .v1, .levelM => 10 | .v1, .levelQ => 13 | .v1, .levelH => 17
  | .v2, .levelL => 10 | .v2, .levelM => 16 | .v2, .levelQ => 22 | .v2, .levelH => 28
  | .v3, .levelL => 15 | .v3, .levelM => 26 | .v3, .levelQ => 36 | .v3, .levelH => 44

/-- Blocks(v, l) (rule R68). -/
def blocks : Version → Level → Nat
  | .v1, .levelL => 1 | .v1, .levelM => 1 | .v1, .levelQ => 1 | .v1, .levelH => 1
  | .v2, .levelL => 1 | .v2, .levelM => 1 | .v2, .levelQ => 1 | .v2, .levelH => 1
  | .v3, .levelL => 1 | .v3, .levelM => 1 | .v3, .levelQ => 2 | .v3, .levelH => 2

/-- NumericCapacity(v, l) (rule R69). -/
def numericCapacity : Version → Level → Nat
  | .v1, .levelL => 41 | .v1, .levelM => 34 | .v1, .levelQ => 27 | .v1, .levelH => 17
  | .v2, .levelL => 77 | .v2, .levelM => 63 | .v2, .levelQ => 48 | .v2, .levelH => 34
  | .v3, .levelL => 127 | .v3, .levelM => 101 | .v3, .levelQ => 77 | .v3, .levelH => 58

/-- AlphanumericCapacity(v, l) (rule R70). -/
def alphanumericCapacity : Version → Level → Nat
  | .v1, .levelL => 25 | .v1, .levelM => 20 | .v1, .levelQ => 16 | .v1, .levelH => 10
  | .v2, .levelL => 47 | .v2, .levelM => 38 | .v2, .levelQ => 29 | .v2, .levelH => 20
  | .v3, .levelL => 77 | .v3, .levelM => 61 | .v3, .levelQ => 47 | .v3, .levelH => 35

/-- The capacity of a version at a level in a mode (rules R69, R70, R170). -/
def capacity (mode : Mode) (v : Version) (l : Level) : Nat :=
  match mode with
  | .numeric => numericCapacity v l
  | .alphanumeric => alphanumericCapacity v l

/-! ### The alphanumeric alphabet -/

/-- ALNUM: the value 0..44 of a character, or none (rule R71). -/
def alnumValue (b : Byte) : Option Nat :=
  if 0x30 ≤ b.toNat ∧ b.toNat ≤ 0x39 then some (b.toNat - 0x30)
  else if 0x41 ≤ b.toNat ∧ b.toNat ≤ 0x5A then some (b.toNat - 0x41 + 10)
  else if b = 0x20 then some 36
  else if b = 0x24 then some 37
  else if b = 0x25 then some 38
  else if b = 0x2A then some 39
  else if b = 0x2B then some 40
  else if b = 0x2D then some 41
  else if b = 0x2E then some 42
  else if b = 0x2F then some 43
  else if b = 0x3A then some 44
  else none

/-! ### Format strings -/

/-- FMTROM: the eight format strings of a level, by mask id, first character bit 14 (rule R72). -/
def formatRow : Level → List (BitVec 15)
  | .levelL =>
    [0b111011111000100, 0b111001011110011, 0b111110110101010, 0b111100010011101,
     0b110011000101111, 0b110001100011000, 0b110110001000001, 0b110100101110110]
  | .levelM =>
    [0b101010000010010, 0b101000100100101, 0b101111001111100, 0b101101101001011,
     0b100010111111001, 0b100000011001110, 0b100111110010111, 0b100101010100000]
  | .levelQ =>
    [0b011010101011111, 0b011000001101000, 0b011111100110001, 0b011101000000110,
     0b010010010110100, 0b010000110000011, 0b010111011011010, 0b010101111101101]
  | .levelH =>
    [0b001011010001001, 0b001001110111110, 0b001110011100111, 0b001100111010000,
     0b000011101100010, 0b000001001010101, 0b000110100001100, 0b000100000111011]

/-- FMTROM[l][m] (rule R72). -/
def formatString (l : Level) (m : Fin 8) : BitVec 15 := (formatRow l).getD m.val 0

end Sys2Proof.Machine
end

