-- ==== Sys2Proof/Machine/Flags.lean ====
section
/-! DEFINITION. The register words the host reads, packed from their fields (rules R23 to R35), and the
validity flags (rules R30, R36, R41). There are no arithmetic flags. -/

namespace Sys2Proof.Machine

/-- A flag as a 32-bit value. -/
def flagWord (b : Bool) : Word := if b then 1 else 0

/-- The numeric code of a fault (rule R301). -/
def FaultCode.num : FaultCode → BitVec 4
  | .capacityExceeded => 1
  | .invalidCharacter => 2
  | .invalidLevel => 3
  | .tableInconsistency => 4
  | .illegalCommand => 5
  | .illegalOperand => 6
  | .sequenceError => 7

/-- STATUS.ERRCODE, 0 for none (rules R25, R301). -/
def errcodeBits (e : Option FaultCode) : BitVec 4 :=
  match e with
  | some c => c.num
  | none => 0

/-- The code of a level in SEL.LEVEL (rule R29). -/
def Level.code : Level → BitVec 2
  | .levelL => 0
  | .levelM => 1
  | .levelQ => 2
  | .levelH => 3

/-- The level of a two-bit code (rule R29). -/
def levelOfCode (c : BitVec 2) : Level :=
  if c = 0 then .levelL else if c = 1 then .levelM else if c = 2 then .levelQ else .levelH

/-- The code of a mode in SEL.MODE (rule R29). -/
def Mode.code : Mode → Bool
  | .numeric => false
  | .alphanumeric => true

/-- The mode of its bit (rule R29). -/
def modeOfCode (b : Bool) : Mode := if b then .alphanumeric else .numeric

/-- The two bits of SEL.VERSION (rule R29). -/
def versionCode (v : Option Version) : BitVec 2 :=
  match v with
  | none => 0
  | some .v1 => 1
  | some .v2 => 2
  | some .v3 => 3

/-- The version of its two bits, 0 being none (rule R29). -/
def versionOfCode (c : BitVec 2) : Option Version :=
  if c = 0 then none else if c = 1 then some .v1 else if c = 2 then some .v2 else some .v3

/-- CTRL as read: RS_CLEAN, all else 0 (rule R23). -/
def State.ctrlWord (s : State) : Word := flagWord s.rsClean

/-- STATUS as read (rule R25). -/
def State.statusWord (s : State) : Word :=
  flagWord s.busy ||| (flagWord s.done <<< 1) ||| (flagWord s.err <<< 2) ||| (flagWord s.outValid <<< 3)
    ||| ((errcodeBits s.errcode).setWidth 32 <<< 8) ||| (s.lastOp.setWidth 32 <<< 16)

/-- SEL as read (rule R29). -/
def selWord (x : Sel) : Word :=
  (versionCode x.version).setWidth 32 ||| (flagWord x.mode.code <<< 4) ||| (x.level.code.setWidth 32 <<< 8)

/-- SEL as a host write leaves it: the other bits are ignored (rule R29). -/
def selOfWord (w : Word) : Sel :=
  { version := versionOfCode (w.extractLsb' 0 2)
    mode := modeOfCode (w.getLsbD 4)
    level := levelOfCode (w.extractLsb' 8 2) }

/-- WINNER as read (rule R30). -/
def State.winnerWord (s : State) : Word :=
  BitVec.ofNat 32 s.winnerMask.val ||| (flagWord s.winnerValid <<< 8)

/-- INFO, computed from SEL (rule R33). -/
def infoWord (x : Sel) : Word :=
  match x.version with
  | none => 0
  | some v =>
    BitVec.ofNat 32 (dataCodewords v x.level) ||| (BitVec.ofNat 32 (errorCodewords v x.level) <<< 8)
      ||| (BitVec.ofNat 32 (blocks v x.level) <<< 16) ||| (BitVec.ofNat 32 v.side <<< 24)

/-- PATH_LEN, computed from SEL (rule R35). -/
def pathLenWord (x : Sel) : Word :=
  match x.version with
  | none => 0
  | some v => BitVec.ofNat 32 (pathLength v)

/-- WINNER.VALID is cleared (rule R30). -/
def State.clearWinner (s : State) : State := { s with winnerValid := false }

/-- RESULT of a GF command, zero-extended from 8 bits (rule R27). -/
def State.setResultByte (s : State) (b : Byte) : State := { s with result := b.setWidth 16 }

end Sys2Proof.Machine
end

