-- ==== Sys2Proof/Machine/Bus.lean ====
section
/-! DEFINITION. The host's accesses to the register window: the map (10_state section 3), reads (rules R82,
R342), writes (rules R23, R26 to R29, R34, R37, R38, R340, R341), refusals (rule R308) and soft reset
(rules R332, R333). -/

namespace Sys2Proof.Machine

/-! ### The register map -/

/-- What an aligned offset of the window names. -/
inductive Location where
  | id | ctrl | status | cmd | result | textLen | sel | winner
  | score (m : Fin 8)
  | format | info | streamLen | pathLen
  /-- A word of a buffer. -/
  | word (b : Buffer)
deriving DecidableEq, Repr

/-- The map of 10_state section 3; none is unmapped (rules R83, R308). -/
def locate (off : Nat) : Option Location :=
  if off % 4 ≠ 0 then none
  else if off = 0x000 then some .id
  else if off = 0x004 then some .ctrl
  else if off = 0x008 then some .status
  else if off = 0x00C then some .cmd
  else if off = 0x010 then some .result
  else if off = 0x014 then some .textLen
  else if off = 0x018 then some .sel
  else if off = 0x01C then some .winner
  else if 0x020 ≤ off ∧ off < 0x040 then some (.score (Fin.ofNat 8 ((off - 0x020) / 4)))
  else if off = 0x040 then some .format
  else if off = 0x044 then some .info
  else if off = 0x048 then some .streamLen
  else if off = 0x04C then some .pathLen
  else (bufferAt off).map .word

/-- The locations the host may write (10_state section 3, rule R308). -/
def Location.hostWritable : Location → Bool
  | .id => false
  | .ctrl => true
  | .status => false
  | .cmd => true
  | .result => false
  | .textLen => true
  | .sel => true
  | .winner => false
  | .score _ => false
  | .format => false
  | .info => false
  | .streamLen => true
  | .pathLen => false
  | .word b => b.hostWritable

/-- The locations whose reads are exact while BUSY (rule R342). -/
def Location.exactWhileBusy : Location → Bool
  | .id => true
  | .ctrl => true
  | .status => true
  | .cmd => true
  | .result => false
  | .textLen => false
  | .sel => false
  | .winner => false
  | .score _ => false
  | .format => false
  | .info => false
  | .streamLen => false
  | .pathLen => false
  | .word _ => false

/-! ### Reads -/

/-- The exact value of a location (rules R23 to R38, R80). -/
def State.valueAt (s : State) (off : Nat) : Location → Word
  | .id => Config.idValue
  | .ctrl => s.ctrlWord
  | .status => s.statusWord
  | .cmd => s.cmd
  | .result => s.result.setWidth 32
  | .textLen => s.textLen.setWidth 32
  | .sel => selWord s.sel
  | .winner => s.winnerWord
  | .score m => s.score[m]
  | .format => s.format.setWidth 32
  | .info => infoWord s.sel
  | .streamLen => s.streamLen.setWidth 32
  | .pathLen => pathLenWord s.sel
  | .word _ => s.readWord off

/-- The bus's answer to an access. -/
def State.reply (s : State) (a : BusAnswer) : State := { s with answer := some a }

/-- A host read (rules R81, R82, R308, R342). -/
def State.hostRead (s : State) (width off : Nat) : State :=
  if width ≠ 32 then s.reply .busError
  else
    match locate off with
    | none => s.reply .busError
    | some loc =>
      if s.busy && !loc.exactWhileBusy then
        { s with draws := s.draws + 1, answer := some (.data (Config.busyRead s.draws)) }
      else s.reply (.data (s.valueAt off loc))

/-! ### Soft reset -/

/-- writes(w): the buffers a command writes (rule R333). -/
def writtenBuffers : Instr → List Buffer
  | .nop => []
  | .gfmul _ _ => []
  | .gflog _ => []
  | .gfexp _ => []
  | .rsenc _ _ => [.ecc]
  | .select _ => []
  | .bitstr => [.data]
  | .eccil => [.stream, .ecc]
  | .build => [.base]
  | .masksc => candBuffers
  | .fmt => [.out]
  | .encode _ => [.data, .stream, .ecc, .base] ++ candBuffers ++ [.out]

/-- writes(w) of a word: an illegal one writes nothing (rule R333). -/
def writtenBuffersOfWord (w : Word) : List Buffer :=
  match decode w with
  | .ok i => writtenBuffers i
  | .error _ => []

/-- The buffers an abandoned command leaves unspecified (rules R332, R333). -/
def State.abandoned (s : State) : List Buffer :=
  match s.inflight with
  | some f => writtenBuffersOfWord f.word
  | none => []

/-- CAND[0..7] share one draw (rule R333), so all eight are forgotten and the draw moves on once for each;
any new draw is as free as another. -/
def State.unspecifyAll (s : State) (bs : List Buffer) : State :=
  bs.foldl State.unspecify s

/-- soft_reset (rule R332). -/
def State.softReset (s : State) : State :=
  { s.unspecifyAll s.abandoned with
    rsClean := false
    done := false
    err := false
    outValid := false
    errcode := none
    lastOp := 0
    cmd := 0
    result := 0
    textLen := 0
    sel := { version := none, mode := .numeric, level := .levelL }
    winnerMask := 0
    winnerValid := false
    score := Vector.replicate 8 0
    format := 0
    streamLen := 0
    inflight := none
    latency := 0 }

/-! ### Writes -/

/-- A write to CTRL: bit 1 resets and hides bit 0, else bit 0 is RS_CLEAN (rules R23, R332, R341). -/
def State.writeCtrl (s : State) (v : Word) : State :=
  if v.getLsbD 1 then s.softReset else { s with rsClean := v.getLsbD 0 }

/-- A write to a word of a buffer: a matrix row has no bits 31..29 (rules R37, R38). -/
def State.writeBufferWord (s : State) (b : Buffer) (off : Nat) (v : Word) : State :=
  s.writeWord off (if b.isMatrix then v &&& 0x1FFFFFFF else v)

/-- A permitted write (rules R23, R26, R28, R29, R34, R37, R38). -/
def State.performWrite (s : State) (off : Nat) (v : Word) : Location → State
  | .ctrl => s.writeCtrl v
  | .cmd => s.issue v
  | .textLen => { s with textLen := v.extractLsb' 0 8 }
  | .sel => { s with sel := selOfWord v, winnerValid := false }
  | .streamLen => { s with streamLen := v.extractLsb' 0 10 }
  | .word b => s.writeBufferWord b off v
  | .id => s
  | .status => s
  | .result => s
  | .winner => s
  | .score _ => s
  | .format => s
  | .info => s
  | .pathLen => s

/-- Whether a write is permitted: to a writable location, and to CTRL only while BUSY (rules R308, R340,
R341). -/
def State.writePermitted (s : State) (loc : Location) : Bool :=
  loc.hostWritable && (!s.busy || loc == .ctrl)

/-- A host write (rules R81, R82, R308). -/
def State.hostWrite (s : State) (width off : Nat) (v : Word) : State :=
  if width ≠ 32 then s.reply .busError
  else
    match locate off with
    | none => s.reply .busError
    | some loc =>
      if s.writePermitted loc then (s.performWrite off v loc).reply .accepted
      else s.reply .busError

/-! ### The host's moves -/

/-- One access of the host (rule R85). -/
def State.perform (s : State) : BusAccess → State
  | .read width off => s.hostRead width off
  | .write width off v => s.hostWrite width off v

/-- The host performs its next access, the oldest one first; with none it does nothing (rule R85). -/
def State.hostMove (s : State) : State :=
  match s.bus with
  | [] => s
  | a :: rest => State.perform { s with bus := rest } a

/-- A move of the host while a command is in flight: one less to its completion (rule R345). -/
def State.hostMoveBusy (s : State) : State :=
  State.hostMove { s with latency := s.latency - 1 }

end Sys2Proof.Machine
end

