-- ==== Sys2Proof/Machine/MatrixBuild.lean ====
section
/-! DEFINITION. The matrix builder, BUILD (rules R222 to R227). -/

namespace Sys2Proof.Machine

/-- Stream bit i: bit 7 − (i mod 8) of STREAM[⌊i/8⌋] (rule R203). -/
def streamBit (bytes : List Byte) (i : Nat) : Bool :=
  (bytes.getD (i / 8) 0).getLsbD (7 - i % 8)

/-- Write one module. -/
def Matrix.set (m : Matrix) (r c : Nat) (dark : Bool) : Matrix :=
  m.modify r (fun row =>
    if dark then row ||| ((1 : Row) <<< c) else row &&& ~~~((1 : Row) <<< c))

/-- Placement: stream bit i goes to cell PATH[v][i]; i counts from the given index (rule R223). -/
def placeFrom (bytes : List Byte) : Nat → List (Nat × Nat) → Matrix → Matrix
  | _, [], m => m
  | i, p :: ps, m => placeFrom bytes (i + 1) ps (Matrix.set m p.1 p.2 (streamBit bytes i))

/-- The unmasked matrix: the stream placed on the fixed pattern (rules R222, R223, R225). -/
def buildMatrix (v : Version) (bytes : List Byte) : Matrix :=
  placeFrom bytes 0 (path v) (stamp v)

/-- The stage of BUILD (rules R224, R225). -/
def buildStage (s : State) : StageResult :=
  match s.sel.version with
  | none => .fault .sequenceError s
  | some v =>
    if s.streamLen.toNat ≠ pathLength v then .fault .tableInconsistency s
    else
      .ok (s.writeMatrix .base (buildMatrix v (s.readBuffer .stream Config.streamBytes))).clearWinner

/-- BUILD (rule R225). -/
def execBuild (s : State) : Host.Outcome State Fault Refusal :=
  (buildStage s).finish

end Sys2Proof.Machine
end

