-- ==== Sys2Proof/Machine/Format.lean ====
section
/-! DEFINITION. The format-information encoder, FMT (rules R270 to R274). -/

namespace Sys2Proof.Machine

/-- Write bit i of the format string into both copies (rules R272, R273). -/
def placeFormatBit (n : Nat) (f : BitVec 15) (m : Matrix) (i : Nat) : Matrix :=
  let a := formatCellA i
  let b := formatCellB n i
  Matrix.set (Matrix.set m a.1 a.2 (f.getLsbD i)) b.1 b.2 (f.getLsbD i)

/-- place_format (rule R273). -/
def placeFormat (n : Nat) (f : BitVec 15) (m : Matrix) : Matrix :=
  (List.range 15).foldl (placeFormatBit n f) m

/-- The finished symbol: the winning candidate, restricted to N×N, with the format string (rule R270). -/
def finishedMatrix (cand : Matrix) (v : Version) (f : BitVec 15) : Matrix :=
  placeFormat v.side f (Matrix.ofCells v.side (Matrix.get cand))

/-- The stage of FMT (rule R270). -/
def fmtStage (s : State) : StageResult :=
  match s.sel.version with
  | none => .fault .sequenceError s
  | some v =>
    if s.winnerValid = false then .fault .sequenceError s
    else
      let f := formatString s.sel.level s.winnerMask
      .ok { s.writeMatrix .out (finishedMatrix (s.readMatrix (.cand s.winnerMask)) v f) with
            format := f
            outValid := true }

/-- FMT (rule R270). -/
def execFmt (s : State) : Host.Outcome State Fault Refusal :=
  (fmtStage s).finish

end Sys2Proof.Machine
end

