-- ==== Sys2Proof/Machine/Operands.lean ====
section
/-! DEFINITION. Operand forms: the level byte (rule R171), the range of RSENC's operands (rule R150), and
the text operand with its digits and case folding (rules R172, R173, R181). -/

namespace Sys2Proof.Machine

/-- levelcode of rule R171: an ASCII letter in either case. -/
def levelOfByte (lc : Byte) : Option Level :=
  if lc = 0x4C ∨ lc = 0x6C then some .levelL
  else if lc = 0x4D ∨ lc = 0x6D then some .levelM
  else if lc = 0x51 ∨ lc = 0x71 then some .levelQ
  else if lc = 0x48 ∨ lc = 0x68 then some .levelH
  else none

/-- RSENC's message length is in 1..64 (rule R150). -/
def messageLengthOk (k : Nat) : Bool := decide (1 ≤ k) && decide (k ≤ Config.dataBytes)

/-- RSENC's error-codeword count is in E_SET (rule R150). -/
def errorCountOk (e : Nat) : Bool := Config.eSet.contains e

/-- A decimal digit, a byte in 0x30..0x39 (rule R173). -/
def isDigit (b : Byte) : Bool := decide (0x30 ≤ b.toNat) && decide (b.toNat ≤ 0x39)

/-- Case folding of one byte: 0x61..0x7A become 0x20 lower (rule R181). -/
def foldByte (b : Byte) : Byte :=
  if 0x61 ≤ b.toNat ∧ b.toNat ≤ 0x7A then b - 0x20 else b

/-- The text payload TEXT[0..TEXT_LEN) (rule R28); read only when TEXT_LEN is at most 128 (rule R172). -/
def State.text (s : State) : List Byte := s.readBuffer .text s.textLen.toNat

/-- TEXT_LEN > 128 (rules R172, R180). -/
def State.textTooLong (s : State) : Bool := decide (Config.textBytes < s.textLen.toNat)

end Sys2Proof.Machine
end

