-- ==== Sys2Proof/Machine/BitStream.lean ====
section
/-! DEFINITION. The bit-stream encoder, BITSTR (rules R180 to R186). -/

namespace Sys2Proof.Machine

/-- bits(v, w): the w-bit unsigned binary of v, most significant bit first (rules R12, R185). -/
def bits (v : Nat) : Nat → List Bool
  | 0 => []
  | w + 1 => v.testBit w :: bits v w

/-- n zero bits. -/
def zeroBits (n : Nat) : List Bool := List.replicate n false

/-- The value of a digit byte. -/
def digitValue (b : Byte) : Nat := b.toNat - 0x30

/-- The value of an alphanumeric byte (rule R71). -/
def alnumOf (b : Byte) : Nat := (alnumValue b).getD 0

/-- numeric_bits: groups of three digits in 10 bits, a trailing two in 7, a trailing one in 4 (rule R183). -/
def numericBits : List Byte → List Bool
  | [] => []
  | [a] => bits (digitValue a) 4
  | [a, b] => bits (10 * digitValue a + digitValue b) 7
  | a :: b :: c :: rest =>
    bits (100 * digitValue a + 10 * digitValue b + digitValue c) 10 ++ numericBits rest

/-- alnum_bits: pairs in 11 bits, a trailing single in 6 (rule R184). -/
def alnumBits : List Byte → List Bool
  | [] => []
  | [a] => bits (alnumOf a) 6
  | a :: b :: rest => bits (alnumOf a * 45 + alnumOf b) 11 ++ alnumBits rest

/-- The text as the mode reads it: folded in Alphanumeric mode only (rule R181). -/
def foldText (mode : Mode) (t : List Byte) : List Byte :=
  match mode with
  | .numeric => t
  | .alphanumeric => t.map foldByte

/-- The character check of rule R182 on the folded text. -/
def charsOk (mode : Mode) (t : List Byte) : Bool :=
  match mode with
  | .numeric => t.all isDigit
  | .alphanumeric => t.all (fun b => (alnumValue b).isSome)

/-- Mode indicator, count indicator and data bits, before the terminator (rule R185). -/
def header (mode : Mode) (t : List Byte) : List Bool :=
  match mode with
  | .numeric => bits 1 4 ++ bits t.length 10 ++ numericBits t
  | .alphanumeric => bits 2 4 ++ bits t.length 9 ++ alnumBits t

/-- The terminator: 4 zero bits, or as many as are left (rule R185). -/
def terminator (required : Nat) (s : List Bool) : List Bool :=
  s ++ zeroBits (if 4 ≤ required - s.length then 4 else required - s.length)

/-- Zero bits up to a byte boundary (rule R185). -/
def byteAlign (s : List Bool) : List Bool :=
  s ++ zeroBits ((8 - s.length % 8) % 8)

/-- n pad bytes, 0xEC and 0x11 in turn; k counts them (rule R185). -/
def padBytes : Nat → Nat → List Bool
  | 0, _ => []
  | n + 1, k => bits (if k % 2 = 0 then 0xEC else 0x11) 8 ++ padBytes n (k + 1)

/-- Pad bytes up to the required length, both lengths being multiples of 8 here (rule R185). -/
def padTo (required : Nat) (s : List Bool) : List Bool :=
  s ++ padBytes ((required - s.length) / 8) 0

/-- stream(t, mode, v, l): the padded stream and the length before the terminator, or none when the data
does not fit (rule R185). -/
def dataStream (t : List Byte) (mode : Mode) (v : Version) (l : Level) : Option (List Bool × Nat) :=
  let required := 8 * dataCodewords v l
  let s := header mode t
  if required < s.length then none
  else some (padTo required (byteAlign (terminator required s)), s.length)

/-- Byte i of a bit string, first bit most significant, bits past the end being 0 (rules R180, R203). -/
def byteOfBits (s : List Bool) (i : Nat) : Byte :=
  BitVec.ofFnLE (fun j : Fin 8 => s.getD (8 * i + (7 - j.val)) false)

/-- The first n bytes of a bit string. -/
def packBits (s : List Bool) (n : Nat) : List Byte :=
  (List.range n).map (byteOfBits s)

/-- The stage of BITSTR: sequence, length, characters, bit count (rules R180, R303). -/
def bitstrStage (s : State) : StageResult :=
  match s.sel.version with
  | none => .fault .sequenceError s
  | some v =>
    if s.textTooLong then .fault .capacityExceeded s
    else
      let t := foldText s.sel.mode s.text
      if charsOk s.sel.mode t = false then .fault .invalidCharacter s
      else
        match dataStream t s.sel.mode v s.sel.level with
        | none => .fault .capacityExceeded s
        | some (bs, pre) =>
          .ok { s.writeBytes Buffer.data.start (packBits bs (dataCodewords v s.sel.level)) with
                result := BitVec.ofNat 16 pre
                winnerValid := false }

/-- BITSTR (rule R180). -/
def execBitstr (s : State) : Host.Outcome State Fault Refusal :=
  (bitstrStage s).finish

end Sys2Proof.Machine
end

