-- ==== Sys2Proof/Machine/Gf.lean ====
section
/-! DEFINITION. The GF(256) arithmetic unit: NOP, GFMUL, GFLOG, GFEXP (rules R130 to R135). -/

namespace Sys2Proof.Machine

/-- Field multiplication by logarithms (rule R131, the normative form). -/
def gfmul (a b : Byte) : Byte :=
  if a = 0 ∨ b = 0 then 0 else expOf ((logOf a + logOf b) % 255)

/-- The stage of GFLOG (rule R132). -/
def gflogStage (a : Byte) (s : State) : StageResult :=
  if a = 0 then .fault .illegalOperand s else .ok { s with result := BitVec.ofNat 16 (logOf a) }

/-- NOP: skip (rule R130). -/
def execNop (s : State) : Host.Outcome State Fault Refusal :=
  (StageResult.ok s).finish

/-- GFMUL: RESULT ← gfmul(a, b) (rule R131). -/
def execGfmul (a b : Byte) (s : State) : Host.Outcome State Fault Refusal :=
  (StageResult.ok (s.setResultByte (gfmul a b))).finish

/-- GFLOG: RESULT ← LOG[a], IllegalOperand at a = 0 (rule R132). -/
def execGflog (a : Byte) (s : State) : Host.Outcome State Fault Refusal :=
  (gflogStage a s).finish

/-- GFEXP: RESULT ← EXP[e mod 255] (rule R133). -/
def execGfexp (e : Byte) (s : State) : Host.Outcome State Fault Refusal :=
  (StageResult.ok (s.setResultByte (expOf (e.toNat % 255)))).finish

end Sys2Proof.Machine
end

