-- ==== Sys2Proof/Machine/ReedSolomon.lean ====
section
/-! DEFINITION. The Reed-Solomon encoder: rs_div (rules R151, R152) and RSENC (rule R150). -/

namespace Sys2Proof.Machine

/-- n zero bytes. -/
def zeroBytes (n : Nat) : List Byte := List.replicate n 0

/-- The scaled generator of one step: every coefficient times the leading term. A zero leading term
counts as exponent 0 (the source's substitution), or contributes zeros in clean mode (rule R152). -/
def scaledGenerator (g : List Nat) (lead : Byte) (clean : Bool) : List Byte :=
  if lead = 0 then
    if clean then zeroBytes g.length else g.map (fun j => expOf (j % 255))
  else g.map (fun j => expOf ((j + logOf lead) % 255))

/-- One step: pad at the tail, exclusive-or, drop the leading term whatever its value (rule R151). -/
def rsStep (g : List Nat) (clean : Bool) (rem : List Byte) : List Byte :=
  let s := scaledGenerator g (rem.headD 0) clean
  let n := max rem.length s.length
  (List.zipWith (· ^^^ ·) (rem ++ zeroBytes (n - rem.length)) (s ++ zeroBytes (n - s.length))).drop 1

/-- The steps of the division, one for each message codeword (rule R151). -/
def rsSteps (g : List Nat) (clean : Bool) : Nat → List Byte → List Byte
  | 0, rem => rem
  | k + 1, rem => rsSteps g clean k (rsStep g clean rem)

/-- rs_div (rule R151). -/
def rsDiv (msg : List Byte) (e : Nat) (clean : Bool) : List Byte :=
  rsSteps (genPoly e) clean msg.length msg

/-- The stage of RSENC (rule R150). -/
def rsencStage (k e : Byte) (s : State) : StageResult :=
  if messageLengthOk k.toNat = false then .fault .illegalOperand s
  else if errorCountOk e.toNat = false then .fault .illegalOperand s
  else .ok (s.writeBytes Buffer.ecc.start (rsDiv (s.readBuffer .data k.toNat) e.toNat s.clean))

/-- RSENC: ECC[0..E) ← rs_div(DATA[0..k), E, clean) (rule R150). -/
def execRsenc (k e : Byte) (s : State) : Host.Outcome State Fault Refusal :=
  (rsencStage k e s).finish

end Sys2Proof.Machine
end

