-- ==== Sys2Proof/Machine/Interleave.lean ====
section
/-! DEFINITION. Error coding and interleaving, ECCIL (rules R200 to R206). -/

namespace Sys2Proof.Machine

/-- Db(v, l), data codewords of one block (rules R68, R201). -/
def blockData (v : Version) (l : Level) : Nat := dataCodewords v l / blocks v l

/-- Eb(v, l), error codewords of one block (rules R68, R201). -/
def blockErrors (v : Version) (l : Level) : Nat := errorCodewords v l / blocks v l

/-- The data blocks, in order (rule R201). -/
def dataBlocks (v : Version) (l : Level) (d : List Byte) : List (List Byte) :=
  (List.range (blocks v l)).map (fun b => (d.drop (b * blockData v l)).take (blockData v l))

/-- The error block of each data block (rule R201). -/
def errorBlocks (v : Version) (l : Level) (clean : Bool) (d : List Byte) : List (List Byte) :=
  (dataBlocks v l d).map (fun blk => rsDiv blk (blockErrors v l) clean)

/-- Codeword i of every block in turn, for i below n (rule R205). -/
def roundRobin (n : Nat) (blks : List (List Byte)) : List Byte :=
  (List.range n).flatMap (fun i => blks.map (fun blk => blk.getD i 0))

/-- The interleaved codeword sequence (rule R205). -/
def codewordSequence (v : Version) (l : Level) (clean : Bool) (d : List Byte) : List Byte :=
  roundRobin (blockData v l) (dataBlocks v l d) ++ roundRobin (blockErrors v l) (errorBlocks v l clean d)

/-- Remainder bits: 7 above version 1, else none (rule R202). -/
def remainderBits (v : Version) : Nat := if 1 < v.num then 7 else 0

/-- The final bit stream (rules R202, R205). -/
def finalStream (v : Version) (l : Level) (clean : Bool) (d : List Byte) : List Bool :=
  (codewordSequence v l clean d).flatMap (fun cw => bits cw.toNat 8) ++ zeroBits (remainderBits v)

/-- The stage of ECCIL (rule R200). -/
def eccilStage (s : State) : StageResult :=
  match s.sel.version with
  | none => .fault .sequenceError s
  | some v =>
    let l := s.sel.level
    let d := s.readBuffer .data (dataCodewords v l)
    let bs := finalStream v l s.clean d
    let withStream := s.writeBytes Buffer.stream.start (packBits bs Config.streamBytes)
    .ok { withStream.writeBytes Buffer.ecc.start (errorBlocks v l s.clean d).flatten with
          streamLen := BitVec.ofNat 10 bs.length
          winnerValid := false }

/-- ECCIL (rule R200). -/
def execEccil (s : State) : Host.Outcome State Fault Refusal :=
  (eccilStage s).finish

end Sys2Proof.Machine
end

