-- ==== Sys2Proof/Machine/MaskScore.lean ====
section
/-! DEFINITION. The mask generator and penalty scorer, MASKSC (rules R240 to R253). -/

namespace Sys2Proof.Machine

/-! ### Masks -/

/-- f_m(x, y), x the row and y the column (rule R241). -/
def maskPredicate (m : Fin 8) (x y : Nat) : Bool :=
  match m.val with
  | 0 => (x + y) % 2 == 0
  | 1 => x % 2 == 0
  | 2 => y % 3 == 0
  | 3 => (x + y) % 3 == 0
  | 4 => (x / 2 + y / 3) % 2 == 0
  | 5 => (x * y) % 2 + (x * y) % 3 == 0
  | 6 => ((x * y) % 2 + (x * y) % 3) % 2 == 0
  | _ => ((x + y) % 2 + (x * y) % 3) % 2 == 0

/-- One module of candidate m: reserved cells are copied, others flipped where the predicate holds
(rule R243). -/
def candidateCell (b : Matrix) (v : Version) (m : Fin 8) (r c : Nat) : Bool :=
  if reserved v r c then Matrix.get b r c else (Matrix.get b r c).xor (maskPredicate m r c)

/-- Candidate C_m; cells outside N×N are 0 (rules R226, R243). -/
def candidate (b : Matrix) (v : Version) (m : Fin 8) : Matrix :=
  Matrix.ofCells v.side (candidateCell b v m)

/-! ### Penalty rules, on the N×N cells of a matrix -/

/-- Row r as a line (rule R244). -/
def rowLine (m : Matrix) (n r : Nat) : List Bool := (List.range n).map (fun c => Matrix.get m r c)

/-- Column c as a line (rule R244). -/
def columnLine (m : Matrix) (n c : Nat) : List Bool := (List.range n).map (fun r => Matrix.get m r c)

/-- The 2N lines (rule R244). -/
def matrixLines (m : Matrix) (n : Nat) : List (List Bool) :=
  (List.range n).map (rowLine m n) ++ (List.range n).map (columnLine m n)

/-- The lengths of the maximal runs of a line that begins with n cells of value k (rule R245). -/
def runsFrom (k : Bool) (n : Nat) : List Bool → List Nat
  | [] => [n]
  | x :: xs => if x = k then runsFrom k (n + 1) xs else n :: runsFrom x 1 xs

/-- The lengths of a line's maximal runs (rule R245). -/
def runLengths : List Bool → List Nat
  | [] => []
  | x :: xs => runsFrom x 1 xs

/-- What a maximal run adds (rule R245). -/
def runPenalty (len : Nat) : Nat := if 5 ≤ len then 3 + (len - 5) else 0

/-- Rule 1 on one line (rule R245). -/
def linePenalty1 (line : List Bool) : Nat := ((runLengths line).map runPenalty).sum

/-- Rule 1, runs (rule R245). -/
def rule1 (m : Matrix) (n : Nat) : Nat := ((matrixLines m n).map linePenalty1).sum

/-- Whether cells (r..r+h, c) of one column all have colour k (rule R246). -/
def columnUniform (m : Matrix) (k : Bool) (r c h : Nat) : Bool :=
  (List.range h).all (fun i => Matrix.get m (r + i) c == k)

/-- Whether cells (r, c..c+w) of one row all have colour k (rule R246). -/
def rowUniform (m : Matrix) (k : Bool) (r c w : Nat) : Bool :=
  (List.range w).all (fun j => Matrix.get m r (c + j) == k)

/-- Phase 1 of rule 2, joint growth. A unit of fuel for each enlargement; N is enough (rule R246). -/
def growBoth (m : Matrix) (n : Nat) (k : Bool) (r c : Nat) : Nat → Nat → Nat → Nat × Nat
  | 0, w, h => (w, h)
  | fuel + 1, w, h =>
    if r + h < n ∧ c + w < n ∧ columnUniform m k r (c + w) (h + 1) ∧ rowUniform m k (r + h) c (w + 1) then
      growBoth m n k r c fuel (w + 1) (h + 1)
    else (w, h)

/-- Phase 2 of rule 2, width growth over the current height (rule R246). -/
def growWidth (m : Matrix) (n : Nat) (k : Bool) (r c h : Nat) : Nat → Nat → Nat
  | 0, w => w
  | fuel + 1, w =>
    if c + w < n ∧ columnUniform m k r (c + w) h then growWidth m n k r c h fuel (w + 1) else w

/-- Phase 3 of rule 2, height growth over the current width (rule R246). -/
def growHeight (m : Matrix) (n : Nat) (k : Bool) (r c w : Nat) : Nat → Nat → Nat
  | 0, h => h
  | fuel + 1, h =>
    if r + h < n ∧ rowUniform m k (r + h) c w then growHeight m n k r c w fuel (h + 1) else h

/-- The width and height an anchor grows to: jointly, then in width, then in height (rule R246). -/
def grownBlock (m : Matrix) (n r c : Nat) : Nat × Nat :=
  let k := Matrix.get m r c
  let wh := growBoth m n k r c n 1 1
  let w := growWidth m n k r c wh.2 n wh.1
  (w, growHeight m n k r c w n wh.2)

/-- What an anchor adds (rule R246). -/
def blockPenalty (m : Matrix) (n r c : Nat) : Nat :=
  let wh := grownBlock m n r c
  3 * (wh.1 - 1) * (wh.2 - 1)

/-- Rule 2, blocks (rule R246). -/
def rule2 (m : Matrix) (n : Nat) : Nat :=
  ((List.range n).map (fun r => ((List.range n).map (fun c => blockPenalty m n r c)).sum)).sum

/-- 00001011101 (rule R247). -/
def patternA : List Bool :=
  [false, false, false, false, true, false, true, true, true, false, true]

/-- 10111010000 (rule R247). -/
def patternB : List Bool :=
  [true, false, true, true, true, false, true, false, false, false, false]

/-- Whether the 11 cells from offset i match a pattern (rule R247). -/
def windowMatches (line : List Bool) (i : Nat) : Bool :=
  let w := (line.drop i).take 11
  w == patternA || w == patternB

/-- Rule 3 on one line: 40 for each matching offset 0..N−11 (rule R247). -/
def linePenalty3 (n : Nat) (line : List Bool) : Nat :=
  40 * ((List.range (n - 10)).filter (windowMatches line)).length

/-- Rule 3, patterns (rule R247). -/
def rule3 (m : Matrix) (n : Nat) : Nat := ((matrixLines m n).map (linePenalty3 n)).sum

/-- D, the dark cells of the N×N matrix (rule R248). -/
def darkCount (m : Matrix) (n : Nat) : Nat :=
  ((List.range n).map (fun r => (rowLine m n r).count true)).sum

/-- Rule 4 for D dark cells of N² (rule R248). -/
def balancePenalty (d n : Nat) : Nat :=
  let lo := 5 * (20 * d / n ^ 2)
  let hi := lo + 5
  min (dist lo 50) (dist hi 50) / 5 * 10

/-- Rule 4, balance (rule R248). -/
def rule4 (m : Matrix) (n : Nat) : Nat := balancePenalty (darkCount m n) n

/-- The total score, the sum of the four rules (rule R250). -/
def score (m : Matrix) (n : Nat) : Nat := rule1 m n + rule2 m n + rule3 m n + rule4 m n

/-- The lowest score wins, a tie goes to the lowest mask id (rule R251). -/
def selectMask (sc : Fin 8 → Nat) : Fin 8 :=
  [1, 2, 3, 4, 5, 6, 7].foldl (fun win m => if sc m < sc win then m else win) 0

/-! ### The command -/

/-- The score of candidate m of a base matrix (rules R243, R250). -/
def candidateScore (b : Matrix) (v : Version) (m : Fin 8) : Nat := score (candidate b v m) v.side

/-- Write the eight candidates (rule R240). -/
def State.writeCandidates (s : State) (b : Matrix) (v : Version) : State :=
  (List.finRange 8).foldl (fun t m => t.writeMatrix (.cand m) (candidate b v m)) s

/-- The stage of MASKSC (rule R240). -/
def maskscStage (s : State) : StageResult :=
  match s.sel.version with
  | none => .fault .sequenceError s
  | some v =>
    let b := s.readMatrix .base
    .ok { s.writeCandidates b v with
          score := Vector.ofFn (fun m => BitVec.ofNat 32 (candidateScore b v m))
          winnerMask := selectMask (candidateScore b v)
          winnerValid := true }

/-- MASKSC (rule R240). -/
def execMasksc (s : State) : Host.Outcome State Fault Refusal :=
  (maskscStage s).finish

end Sys2Proof.Machine
end

