-- ==== Sys2Proof/Machine/Select.lean ====
section
/-! DEFINITION. The version and mode selector, SELECT (rules R170 to R175). -/

namespace Sys2Proof.Machine

/-- The mode of a text: Numeric iff every character is a decimal digit (rule R173). -/
def modeOfText (t : List Byte) : Mode := if t.all isDigit then .numeric else .alphanumeric

/-- The smallest version whose capacity is at least n (rule R170). -/
def smallestVersion (mode : Mode) (l : Level) (n : Nat) : Option Version :=
  [Version.v1, .v2, .v3].find? (fun v => decide (n ≤ capacity mode v l))

/-- The stage of SELECT: level, then length, then the capacity search (rules R170, R175). -/
def selectStage (lc : Byte) (s : State) : StageResult :=
  match levelOfByte lc with
  | none => .fault .invalidLevel s
  | some l =>
    if s.textTooLong then .fault .capacityExceeded s
    else
      let mode := modeOfText s.text
      match smallestVersion mode l s.textLen.toNat with
      | none => .fault .capacityExceeded s
      | some v => .ok { s with sel := { version := some v, mode := mode, level := l }, winnerValid := false }

/-- SELECT (rule R170). -/
def execSelect (lc : Byte) (s : State) : Host.Outcome State Fault Refusal :=
  (selectStage lc s).finish

end Sys2Proof.Machine
end

