-- ==== Sys2Proof/Machine/Pipeline.lean ====
section
/-! DEFINITION. The whole-pipeline command, ENCODE (rules R280, R281). -/

namespace Sys2Proof.Machine

/-- The six stages in order; the first fault ends them, completed stages keep their writes (rule R280). -/
def encodeStage (lc : Byte) (s : State) : StageResult :=
  (((((selectStage lc s).andThen bitstrStage).andThen eccilStage).andThen buildStage).andThen
    maskscStage).andThen fmtStage

/-- ENCODE (rule R280). -/
def execEncode (lc : Byte) (s : State) : Host.Outcome State Fault Refusal :=
  (encodeStage lc s).finish

end Sys2Proof.Machine
end

