-- ==== Sys2Proof/Machine/Dispatch.lean ====
section
/-! DEFINITION. One arm per command of spec/opcode_table.json: execution and completion of the command in
flight (rule R105). -/

namespace Sys2Proof.Machine

/-- execute(decode(w), clean) and the completion step of rule R105. -/
def exec (i : Instr) (s : State) : Host.Outcome State Fault Refusal :=
  match i with
  | .nop => Sys2Proof.Machine.execNop s
  | .gfmul a b => Sys2Proof.Machine.execGfmul a b s
  | .gflog a => Sys2Proof.Machine.execGflog a s
  | .gfexp e => Sys2Proof.Machine.execGfexp e s
  | .rsenc k e => Sys2Proof.Machine.execRsenc k e s
  | .select level => Sys2Proof.Machine.execSelect level s
  | .bitstr => Sys2Proof.Machine.execBitstr s
  | .eccil => Sys2Proof.Machine.execEccil s
  | .build => Sys2Proof.Machine.execBuild s
  | .masksc => Sys2Proof.Machine.execMasksc s
  | .fmt => Sys2Proof.Machine.execFmt s
  | .encode level => Sys2Proof.Machine.execEncode level s

end Sys2Proof.Machine
end

