-- ==== Sys2Proof/Machine/Step.lean ====
section
/-! DEFINITION. One step of QR-CORE: the core completes the command in flight, or the host makes its next
access (rules R20, R85, R105, R345). -/

namespace Sys2Proof.Machine

/-- The core performs the command in flight in one atomic step (rules R86, R105). -/
def runWord (w : Word) (s : State) : Host.Outcome State Fault Refusal :=
  match decode w with
  | .ok i => exec i s
  | .error _ => execIllegal s

/-- One step. While a command is in flight the host moves until the drawn latency is used up, then the
command completes; with nothing in flight only the host moves (rules R20, R85, R105, R345). -/
def step (s : State) : Host.Outcome State Fault Refusal :=
  match s.inflight with
  | some f => if s.latency = 0 then runWord f.word s else .next s.hostMoveBusy
  | none => .next s.hostMove

/-- The command word placed where the next step takes it: accepted, as by a host write to CMD (rule R104),
with no move of the host left before its completion. The word's bits above nbits are 0. Log entry 5. -/
def State.withFetchWord (s : State) (nbits w : Nat) : State :=
  { s.accept (BitVec.ofNat 32 (w % 2 ^ nbits)) with latency := 0 }

end Sys2Proof.Machine
end

