-- ==== Sys2Proof/Safety.lean ====
section
/-! DEFINITION. The terms the claims are stated in: the machine's invariant, running one command from an idle
state, the polynomial forms of the GF(256) rules, and the register map as plain ranges. -/

namespace Sys2Proof.Machine

/-! ### The invariant -/

/-- What holds of every state the machine reaches from reset, and more: each clause is one rule's promise. -/
structure State.Inv (s : State) : Prop where
  /-- Window memory is in its canonical form (rules R37, R38). -/
  memory : Memory.wf s.mem = true
  /-- LAST_OP is bits 7..0 of the last accepted word (rules R25, R26). -/
  lastOp : s.lastOp = CommandWord.opc s.cmd
  /-- The command in flight is the last accepted word (rules R26, R40). -/
  inflightWord : ∀ f, s.inflight = some f → f.word = s.cmd
  /-- BUSY, DONE and ERR are never 1 two at a time (rule R25). -/
  oneOutcome : ¬ (s.busy = true ∧ s.done = true) ∧ ¬ (s.busy = true ∧ s.err = true) ∧
    ¬ (s.done = true ∧ s.err = true)
  /-- ERRCODE is nonzero exactly when ERR is 1 (rules R25, R301). -/
  errcode : s.err = true ↔ s.errcode ≠ none
  /-- A valid winner belongs to a selected version (rules R30, R240). -/
  winner : s.winnerValid = true → s.sel.version ≠ none
  /-- While a pipeline command is in flight no output is valid (rule R36). -/
  busyOutput : ∀ f, s.inflight = some f → isPipelineWord f.word = true → s.outValid = false
  /-- After a fault of a pipeline command no output is valid (rule R302). -/
  faultOutput : s.err = true → isPipelineWord s.cmd = true → s.outValid = false

/-! ### Running commands from an idle state -/

/-- A command accepted and completed: what the host sees between its write to CMD and BUSY = 0 again
(rules R104, R105). -/
def runCommand (i : Instr) (s : State) : State :=
  match exec i (s.accept (encode i)) with
  | .next t => t
  | .fault _ => s
  | .refused _ => s

/-- Commands issued one after another, each after the one before has completed, the rest left out after a
fault (rules R281, R334). -/
def runStages : List Instr → State → State
  | [], s => s
  | i :: is, s => if (runCommand i s).err then runCommand i s else runStages is (runCommand i s)

/-! ### GF(256) as polynomials -/

/-- xtime: multiplication by x, reduced by 0x11D (rule R62). -/
def xtime (a : Byte) : Byte := if a.getLsbD 7 then (a <<< 1) ^^^ 0x1D else a <<< 1

/-- The carry-less product of two 8-bit polynomials (rule R135), the sum of a·x^i over the first n bits i of b. -/
def carrylessProduct (a b : Byte) : Nat → BitVec 16
  | 0 => 0
  | n + 1 => carrylessProduct a b n ^^^ (if b.getLsbD n then a.setWidth 16 <<< n else 0)

/-- The remainder modulo 0x11D: the terms x^(8+n−1) down to x^8 are removed in turn (rule R135). -/
def reduceModulo (p : BitVec 16) : Nat → BitVec 16
  | 0 => p
  | n + 1 => reduceModulo (if p.getLsbD (8 + n) then p ^^^ (0x11D#16 <<< n) else p) n

/-- The carry-less product reduced modulo 0x11D (rule R135). -/
def polynomialProduct (a b : Byte) : Byte := (reduceModulo (carrylessProduct a b 8) 8).setWidth 8

/-- The value at x of the polynomial whose coefficients are listed highest degree first (rule R154). -/
def evalPolynomial (coeffs : List Byte) (x : Byte) : Byte :=
  coeffs.foldl (fun acc c => gfmul acc x ^^^ c) 0

/-! ### Texts -/

/-- A byte some mode encodes: after folding it is one of the 45 symbols (rules R71, R181). -/
def encodableByte (b : Byte) : Bool := (alnumValue (foldByte b)).isSome

/-- The text BITSTR reads has at most this many bits before the terminator, by the rules' own count
(rules R183, R184). -/
def bitCount (mode : Mode) (n : Nat) : Nat :=
  match mode with
  | .numeric => 14 + 10 * (n / 3) + (if n % 3 = 0 then 0 else if n % 3 = 1 then 4 else 7)
  | .alphanumeric => 13 + 11 * (n / 2) + 6 * (n % 2)

/-- The length of the stream once the terminator is added and the byte boundary reached: at most 4 bits more
than the header and data, never past the required length, then up to a multiple of 8 (rule R185). -/
def alignedLength (pre required : Nat) : Nat := (min (pre + 4) required + 7) / 8 * 8

/-- Pad byte number k (rule R185). -/
def padByte (k : Nat) : Byte := if k % 2 = 0 then 0xEC else 0x11

/-! ### The penalty rules, told apart from how they are computed -/

/-- The line is cut into its maximal runs, each a colour and a length: neighbours differ in colour
(rule R245). A line has one such cut. -/
def cutsIntoRuns (line : List Bool) (runs : List (Bool × Nat)) : Prop :=
  line = runs.flatMap (fun p => List.replicate p.2 p.1) ∧ (∀ p ∈ runs, 0 < p.2) ∧
    runs.IsChain (fun p q => p.1 ≠ q.1)

/-- The w×h rectangle at (r, c) lies in the N×N matrix and has one colour (rule R246). -/
def uniformBlock (m : Matrix) (n r c w h : Nat) : Prop :=
  r + h ≤ n ∧ c + w ≤ n ∧ ∀ i j, i < h → j < w → Matrix.get m (r + i) (c + j) = Matrix.get m r c

/-- How anchor (r, c) grows: to the largest square of side k, then to the largest width w over that height,
then to the largest height h over that width (rule R246). -/
def growsTo (m : Matrix) (n r c k w h : Nat) : Prop :=
  0 < k ∧ uniformBlock m n r c k k ∧ ¬ uniformBlock m n r c (k + 1) (k + 1) ∧
    uniformBlock m n r c w k ∧ ¬ uniformBlock m n r c (w + 1) k ∧
    uniformBlock m n r c w h ∧ ¬ uniformBlock m n r c w (h + 1)

/-- The 11 cells from offset i are 00001011101 or 10111010000, dark being 1 (rule R247). -/
def patternAt (line : Nat → Bool) (i : Nat) : Bool :=
  (List.range 11).map (fun j => line (i + j)) ==
      [false, false, false, false, true, false, true, true, true, false, true] ||
    (List.range 11).map (fun j => line (i + j)) ==
      [true, false, true, true, true, false, true, false, false, false, false]

/-- The sum of f over 0..n. -/
def sumTo (n : Nat) (f : Nat → Nat) : Nat := ((List.range n).map f).sum

/-! ### The register map as ranges -/

/-- The mapped offsets of 10_state section 3 (rules R81, R83, R308). -/
abbrev mappedOffset (off : Nat) : Prop :=
  off % 4 = 0 ∧
    (off < 0x050 ∨ (0x100 ≤ off ∧ off < 0x180) ∨ (0x200 ≤ off ∧ off < 0x280) ∨
      (0x300 ≤ off ∧ off < 0x348) ∨ (0x400 ≤ off ∧ off < 0x474) ∨ (0x500 ≤ off ∧ off < 0x574) ∨
      (0x600 ≤ off ∧ off < 0xA00 ∧ off % 0x80 < 0x74))

/-- The mapped offsets marked read/write in 10_state section 3 (rule R308). -/
abbrev writableOffset (off : Nat) : Prop :=
  mappedOffset off ∧
    (off = 0x004 ∨ off = 0x00C ∨ off = 0x014 ∨ off = 0x018 ∨ off = 0x048 ∨
      (0x100 ≤ off ∧ off < 0x180) ∨ (0x200 ≤ off ∧ off < 0x280) ∨ (0x300 ≤ off ∧ off < 0x348) ∨
      (0x400 ≤ off ∧ off < 0x474))

/-- The offsets whose reads are exact while BUSY: ID, CTRL, STATUS, CMD (rule R342). -/
abbrev exactOffset (off : Nat) : Prop := off = 0x000 ∨ off = 0x004 ∨ off = 0x008 ∨ off = 0x00C

/-- Whether a write of 32 bits at an offset is refused: not writable, or BUSY and not CTRL (rules R308, R340). -/
abbrev refusedWrite (s : State) (off : Nat) : Prop :=
  ¬ writableOffset off ∨ (s.busy = true ∧ off ≠ 0x004)

end Sys2Proof.Machine
end

