-- ==== Sys2Proof/Certificates/Slice0/Obligations.lean ====
section
/-! DEFINITION. The statements for the provers, from the numbered rules of spec/. -/

open Sys2Proof Sys2Proof.Machine

/-! ### Encoding (30_encoding) -/

/-- R110: the listed words are the listed commands, and the listed illegal words are refused. -/
def Obligations.DecodeSampleWords : Prop :=
  decode 0x00CA5301#32 = .ok (.gfmul 0x53 0xCA) ∧ decode 0x00001D02#32 = .ok (.gflog 0x1D) ∧
  decode 0x0000FE03#32 = .ok (.gfexp 254) ∧ decode 0x00071310#32 = .ok (.rsenc 19 7) ∧
  decode 0x00004C20#32 = .ok (.select 0x4C) ∧ decode 0x00000021#32 = .ok .bitstr ∧
  decode 0x00000022#32 = .ok .eccil ∧ decode 0x00000023#32 = .ok .build ∧
  decode 0x00000024#32 = .ok .masksc ∧ decode 0x00000025#32 = .ok .fmt ∧
  decode 0x0000682F#32 = .ok (.encode 0x68) ∧ decode 0x00000000#32 = .ok .nop ∧
  (decode 0x00000004#32).toOption = none ∧ (decode 0x01000021#32).toOption = none ∧
  (decode 0x00000121#32).toOption = none

/-- R101, R102, R108: decoding the assembled word of any command with any operands gives it back. -/
def Obligations.DecodeEncodeRoundTrip : Prop :=
  ∀ i : Instr, decode (encode i) = .ok i

/-- R103: a word that decodes to a command is the word of that command's row with its operands, so every
word has one meaning and no bit is dropped. -/
def Obligations.EncodeDecodeInverse : Prop :=
  ∀ (w : Word) (i : Instr), decode w = .ok i → encode i = w

/-- R106: a word with a reserved opcode, or with a nonzero field that its row shows as 0, is no command,
every other word is one (R102, R103). An illegal word completes with IllegalCommand (R105) and changes nothing
else (R302); that a latency of 0 makes the step the completing one is the model's, log entry 4. -/
def Obligations.IllegalWordsFaultIllegalCommand : Prop :=
  (∀ w : Word,
    (∃ i, decode w = .ok i) ↔
      CommandWord.fieldC w = 0 ∧ CommandWord.opc w ∈ CommandWord.definedOpcodes ∧
      (CommandWord.opc w ∈ CommandWord.opcodesUsingA ∨ CommandWord.fieldA w = 0) ∧
      (CommandWord.opc w ∈ CommandWord.opcodesUsingB ∨ CommandWord.fieldB w = 0)) ∧
  (∀ (s : State) (f : InFlight), s.inflight = some f → s.latency = 0 → (∀ i, decode f.word ≠ .ok i) →
    step s = .next { s with err := true, errcode := some .illegalCommand, inflight := none })

/-! ### The command cycle (30_encoding, 60_exceptions, 70_reset_and_hazards) -/

/-- R104: what a host write to CMD does while idle, and that it is a bus error and changes nothing while BUSY
(latency, draws and answer are fields of the model's own, log entries 4 and 5; nothing is said of the
first two). -/
def Obligations.WriteToCmdIssuesCommand : Prop :=
  (∀ (s : State) (w : Word), s.inflight = none →
    ∃ t, s.hostWrite 32 0x00C w = t ∧
      t = { s with
            cmd := w
            lastOp := w.extractLsb' 0 8
            done := false
            err := false
            errcode := none
            outValid := match decode w with
              | .ok i => if i.isPipeline then false else s.outValid
              | .error _ => s.outValid
            inflight := some { word := w, clean := s.rsClean }
            latency := t.latency
            draws := t.draws
            answer := some .accepted } ∧
      t.busy = true) ∧
  (∀ (s : State) (w : Word), s.busy = true →
    s.hostWrite 32 0x00C w = { s with answer := some .busError })

/-- R20, R85, R86, R105: which agent a step is of. With nothing in flight the host makes its next access; with
a command in flight the host moves while latency is left (log entry 4), then the step is exec of the
decoded command. A word placed by withFetchWord is the very next thing a step runs (log entry 5). -/
def Obligations.StepRunsDecodedCommand : Prop :=
  (∀ s : State, s.inflight = none → s.bus = [] → step s = .next s) ∧
  (∀ (s : State) (a : BusAccess) (rest : List BusAccess), s.inflight = none → s.bus = a :: rest →
    step s = .next (State.perform { s with bus := rest } a)) ∧
  (∀ (s : State) (f : InFlight), s.inflight = some f → s.latency ≠ 0 → s.bus = [] →
    step s = .next { s with latency := s.latency - 1 }) ∧
  (∀ (s : State) (f : InFlight) (a : BusAccess) (rest : List BusAccess), s.inflight = some f →
    s.latency ≠ 0 → s.bus = a :: rest →
    step s = .next (State.perform { s with latency := s.latency - 1, bus := rest } a)) ∧
  (∀ (s : State) (f : InFlight) (i : Instr), s.inflight = some f → s.latency = 0 → decode f.word = .ok i →
    step s = exec i s) ∧
  (∀ (s : State) (i : Instr),
    step (s.withFetchWord 32 (encode i).toNat) = exec i (s.withFetchWord 32 (encode i).toNat))

/-- R105, R300: every command, in every state, completes in one step: nothing is in flight after it, and
either DONE is set and the fault record is as it was, or ERR and ERRCODE are set and DONE is as it was (that
completion keeps the bits R105 does not name, in any state, is log entry 12). -/
def Obligations.CommandsAlwaysComplete : Prop :=
  ∀ (i : Instr) (s : State), ∃ t, exec i s = .next t ∧ t.inflight = none ∧ t.busy = false ∧
    ((t.done = true ∧ t.err = s.err ∧ t.errcode = s.errcode) ∨
      (t.done = s.done ∧ t.err = true ∧ ∃ c, t.errcode = some c))

/-- Log entry 6 (DEDUCED from R300, R308 and R311): nothing stops the machine, from every state a step goes on. -/
def Obligations.NoStepStops : Prop :=
  ∀ s : State, ∃ t, step s = .next t

/-- R345: an accepted command does not stay in flight for ever: within latency + 1 steps there is a moment
with nothing in flight, whatever the host does meanwhile (the form of the latency is log entry 4). -/
def Obligations.AcceptedCommandEnds : Prop :=
  ∀ (s : State) (f : InFlight), s.inflight = some f →
    ∃ k ≤ s.latency + 1, ∃ t, Host.Core.run Sys2Proof.core k s = .next t ∧ t.inflight = none

/-! ### GF(256) (20_memory, 40_gf256) -/

/-- R130: NOP writes nothing but STATUS through the command cycle, keeps OUT_VALID, and STATUS then reads
0x00000002, or 0x0000000A if OUT_VALID was 1. -/
def Obligations.NopChangesStatusOnly : Prop :=
  decode 0x00000000#32 = .ok .nop ∧
  (∀ (w : Word) (i : Instr), CommandWord.opc w = 0 → w ≠ 0 → decode w ≠ .ok i) ∧
  (∀ s : State, exec .nop s = .next { s with done := true, inflight := none }) ∧
  (∀ s : State, ∃ t, exec .nop (s.accept 0) = .next t ∧
    t.statusWord = if s.outValid then 0x0000000A#32 else 0x00000002#32)

/-- R131: RESULT is the product by logarithms, zero-extended; nothing else is written. -/
def Obligations.GfmulWritesProduct : Prop :=
  ∀ (a b : Byte) (s : State),
    decode (0x01#32 ||| (a.setWidth 32 <<< 8) ||| (b.setWidth 32 <<< 16)) = .ok (.gfmul a b) ∧
    exec (.gfmul a b) s =
      .next { s with
              result := if a = 0 ∨ b = 0 then 0 else (expOf ((logOf a + logOf b) % 255)).setWidth 16
              done := true
              inflight := none }

/-- R132: RESULT is the logarithm of a nonzero element; of 0 it is the fault IllegalOperand. -/
def Obligations.GflogWritesLogarithm : Prop :=
  ∀ (a : Byte) (s : State),
    decode (0x02#32 ||| (a.setWidth 32 <<< 8)) = .ok (.gflog a) ∧
    (a ≠ 0 → logOf a ≤ 254 ∧
      exec (.gflog a) s =
        .next { s with result := BitVec.ofNat 16 (logOf a), done := true, inflight := none }) ∧
    (a = 0 → exec (.gflog a) s =
      .next { s with err := true, errcode := some .illegalOperand, inflight := none })

/-- R133: RESULT is the power of α, the exponent taken mod 255, and never 0; GFEXP and GFLOG undo each other. -/
def Obligations.GfexpWritesPower : Prop :=
  ∀ (e : Byte) (s : State),
    decode (0x03#32 ||| (e.setWidth 32 <<< 8)) = .ok (.gfexp e) ∧
    expOf (e.toNat % 255) ≠ 0 ∧
    (e ≠ 0 → expOf (logOf e % 255) = e) ∧ (e.toNat ≤ 254 → logOf (expOf e.toNat) = e.toNat) ∧
    exec (.gfexp e) s =
      .next { s with result := (expOf (e.toNat % 255)).setWidth 16, done := true, inflight := none }

/-- R62 (and R63 of 20_memory): EXP has 255 entries, is generated by xtime from 1, has period 255 and takes each
nonzero element once, LOG being its inverse there. -/
def Obligations.ExpAndLogAreInverse : Prop :=
  expRom.length = 255 ∧ logRom.length = 256 ∧ expOf 0 = 1 ∧ logOf 0 = 0 ∧
  (∀ e < 254, expOf (e + 1) = xtime (expOf e)) ∧ xtime (expOf 254) = expOf 0 ∧
  (∀ a : Byte, a ≠ 0 → logOf a < 255 ∧ expOf (logOf a) = a) ∧
  (∀ e < 255, expOf e ≠ 0 ∧ logOf (expOf e) = e)

/-- R135 (marked derived in the spec): the product by logarithms is the carry-less product reduced modulo
0x11D, on all operand pairs. -/
def Obligations.ProductIsPolynomialProduct : Prop :=
  ∀ a b : Byte, gfmul a b = polynomialProduct a b

/-- R134 (marked derived in the spec): the field laws of GF(256). -/
def Obligations.FieldLaws : Prop :=
  (∀ a b : Byte, gfmul a b = gfmul b a) ∧
  (∀ a b c : Byte, gfmul (gfmul a b) c = gfmul a (gfmul b c)) ∧
  (∀ a b c : Byte, gfmul a (b ^^^ c) = gfmul a b ^^^ gfmul a c) ∧
  (∀ a : Byte, gfmul 1 a = a ∧ gfmul 0 a = 0) ∧
  (∀ a : Byte, a ≠ 0 → gfmul a (expOf ((255 - logOf a) % 255)) = 1)

/-! ### Reed-Solomon (41_reed_solomon) -/

/-- R150: the operand range, the error codewords in ECC[0..E), and that nothing else changes. -/
def Obligations.RsencWritesErrorCodewords : Prop :=
  ∀ (k e : Byte) (s : State),
    decode (0x10#32 ||| (k.setWidth 32 <<< 8) ||| (e.setWidth 32 <<< 16)) = .ok (.rsenc k e) ∧
    (k.toNat < 1 ∨ 64 < k.toNat ∨ e.toNat ∉ [7, 10, 13, 15, 16, 17, 18, 22, 26, 28, 36, 44] →
      exec (.rsenc k e) s =
        .next { s with err := true, errcode := some .illegalOperand, inflight := none }) ∧
    (1 ≤ k.toNat → k.toNat ≤ 64 → e.toNat ∈ [7, 10, 13, 15, 16, 17, 18, 22, 26, 28, 36, 44] →
      ∃ t, exec (.rsenc k e) s = .next t ∧
        t = { s with mem := t.mem, done := true, inflight := none } ∧
        ∀ a, t.readByte a =
          if 0x240 ≤ a ∧ a < 0x240 + e.toNat then
            (rsDiv ((List.range k.toNat).map (fun i => s.readByte (0x200 + i))) e.toNat s.clean).getD
              (a - 0x240) 0
          else s.readByte a)

/-- R153 (marked derived in the spec): the division ends with exactly E codewords. -/
def Obligations.RemainderHasErrorCount : Prop :=
  ∀ (msg : List Byte) (e : Nat) (clean : Bool), msg ≠ [] → e ∈ Config.eSet →
    (rsDiv msg e clean).length = e

/-- R154 (marked derived in the spec): clean mode is polynomial division. The message followed by its error
codewords is a multiple of the generator: it vanishes at each of the generator's E roots α^0 .. α^(E−1),
which determines the E codewords. -/
def Obligations.CleanCodewordsVanishAtRoots : Prop :=
  ∀ (msg : List Byte) (e i : Nat), msg ≠ [] → e ∈ Config.eSet → i < e →
    evalPolynomial (msg ++ rsDiv msg e true) (expOf i) = 0

/-- R154 (marked derived in the spec): the two modes agree whenever no step sees a zero leading term. -/
def Obligations.ModesAgreeWithoutZeroLead : Prop :=
  ∀ (msg : List Byte) (e : Nat), e ∈ Config.eSet →
    (∀ j < msg.length, (rsSteps (genPoly e) true j msg).headD 0 ≠ 0) →
    rsDiv msg e false = rsDiv msg e true

/-! ### Selection (42_select_bitstream) -/

/-- R171: the eight level bytes and their levels; any other byte raises InvalidLevel, in SELECT and in ENCODE. -/
def Obligations.LevelBytesAreDecoded : Prop :=
  (∀ lc : Byte, levelOfByte lc =
    if lc = 0x4C ∨ lc = 0x6C then some .levelL
    else if lc = 0x4D ∨ lc = 0x6D then some .levelM
    else if lc = 0x51 ∨ lc = 0x71 then some .levelQ
    else if lc = 0x48 ∨ lc = 0x68 then some .levelH
    else none) ∧
  Level.levelL.code = 0 ∧ Level.levelM.code = 1 ∧ Level.levelQ.code = 2 ∧ Level.levelH.code = 3 ∧
  (∀ (lc : Byte) (s : State), lc ∉ [0x4C, 0x6C, 0x4D, 0x6D, 0x51, 0x71, 0x48, 0x68] →
    exec (.select lc) s = .next { s with err := true, errcode := some .invalidLevel, inflight := none } ∧
    exec (.encode lc) s = .next { s with err := true, errcode := some .invalidLevel, inflight := none })

/-- R170: SELECT's faults in their order, and the smallest sufficient version otherwise. The mode is Numeric
iff every byte of TEXT[0..TEXT_LEN) is a decimal digit. -/
def Obligations.SelectChoosesSmallestVersion : Prop :=
  ∀ (lc : Byte) (s : State) (mode : Mode),
    (mode = .numeric ↔ ∀ i < s.textLen.toNat,
      0x30 ≤ (s.readByte (0x100 + i)).toNat ∧ (s.readByte (0x100 + i)).toNat ≤ 0x39) →
    decode (0x20#32 ||| (lc.setWidth 32 <<< 8)) = .ok (.select lc) ∧
    (levelOfByte lc = none →
      exec (.select lc) s = .next { s with err := true, errcode := some .invalidLevel, inflight := none }) ∧
    (∀ l, levelOfByte lc = some l →
      (128 < s.textLen.toNat ∨ ∀ v, capacity mode v l < s.textLen.toNat) →
      exec (.select lc) s =
        .next { s with err := true, errcode := some .capacityExceeded, inflight := none }) ∧
    (∀ l v, levelOfByte lc = some l → s.textLen.toNat ≤ 128 → s.textLen.toNat ≤ capacity mode v l →
      (∀ u : Version, u.num < v.num → capacity mode u l < s.textLen.toNat) →
      exec (.select lc) s =
        .next { s with
                sel := { version := some v, mode := mode, level := l }
                winnerValid := false
                done := true
                inflight := none })

/-- R174 (marked derived in the spec): two SELECTs with equal level byte, TEXT_LEN and TEXT[0..TEXT_LEN) end
alike and write equal SEL values, whatever else the two states hold. -/
def Obligations.SelectDependsOnTextAlone : Prop :=
  ∀ (lc : Byte) (s s' t t' : State), s.textLen = s'.textLen →
    (∀ i < s.textLen.toNat, s.readByte (0x100 + i) = s'.readByte (0x100 + i)) →
    s.err = false → s'.err = false →
    exec (.select lc) s = .next t → exec (.select lc) s' = .next t' →
    t.err = t'.err ∧ (t.err = true → t.errcode = t'.errcode) ∧ (t.err = false → t.sel = t'.sel)

/-! ### The bit stream (42_select_bitstream) -/

/-- R180: BITSTR's faults in the order of its pseudocode, and otherwise the data codewords, first bit most
significant, RESULT and WINNER.VALID; nothing else changes. -/
def Obligations.BitstrWritesDataCodewords : Prop :=
  decode 0x00000021#32 = .ok .bitstr ∧
  ∀ s : State,
    (s.sel.version = none →
      exec .bitstr s = .next { s with err := true, errcode := some .sequenceError, inflight := none }) ∧
    ∀ v t, s.sel.version = some v →
      t = foldText s.sel.mode ((List.range s.textLen.toNat).map (fun i => s.readByte (0x100 + i))) →
      (128 < s.textLen.toNat →
        exec .bitstr s =
          .next { s with err := true, errcode := some .capacityExceeded, inflight := none }) ∧
      (s.textLen.toNat ≤ 128 → charsOk s.sel.mode t = false →
        exec .bitstr s =
          .next { s with err := true, errcode := some .invalidCharacter, inflight := none }) ∧
      (s.textLen.toNat ≤ 128 → charsOk s.sel.mode t = true →
        dataStream t s.sel.mode v s.sel.level = none →
        exec .bitstr s =
          .next { s with err := true, errcode := some .capacityExceeded, inflight := none }) ∧
      (∀ bs pre, s.textLen.toNat ≤ 128 → charsOk s.sel.mode t = true →
        dataStream t s.sel.mode v s.sel.level = some (bs, pre) →
        ∃ u, exec .bitstr s = .next u ∧
          u = { s with
                mem := u.mem
                result := BitVec.ofNat 16 pre
                winnerValid := false
                done := true
                inflight := none } ∧
          (∀ i j, i < dataCodewords v s.sel.level → j < 8 →
            (u.readByte (0x200 + i)).getLsbD (7 - j) = bs.getD (8 * i + j) false) ∧
          (∀ a, ¬ (0x200 ≤ a ∧ a < 0x200 + dataCodewords v s.sel.level) → u.readByte a = s.readByte a))

/-- R183, R184: the number of bits before the terminator depends on the length of the text alone. -/
def Obligations.BitCountByLength : Prop :=
  ∀ (mode : Mode) (t : List Byte), (header mode t).length = bitCount mode t.length

/-- R185: the padded stream exists exactly when the header and data bits fit, and has the required length. It is
these bits, then zero bits for the terminator (4, or fewer at the end) and up to the byte boundary, then
pad bytes 0xEC and 0x11 in turn, each most significant bit first. -/
def Obligations.DataStreamFillsCodewords : Prop :=
  ∀ (t : List Byte) (mode : Mode) (v : Version) (l : Level),
    (8 * dataCodewords v l < (header mode t).length → dataStream t mode v l = none) ∧
    ((header mode t).length ≤ 8 * dataCodewords v l → ∃ bs,
      dataStream t mode v l = some (bs, (header mode t).length) ∧
      bs.length = 8 * dataCodewords v l ∧ bs.take (header mode t).length = header mode t ∧
      (∀ i, (header mode t).length ≤ i → i < alignedLength (header mode t).length (8 * dataCodewords v l) →
        bs[i]? = some false) ∧
      (∀ k j, alignedLength (header mode t).length (8 * dataCodewords v l) + 8 * k < 8 * dataCodewords v l →
        j < 8 →
        bs[alignedLength (header mode t).length (8 * dataCodewords v l) + 8 * k + j]? =
          some ((padByte k).getLsbD (7 - j))))

/-- R69, R70 (marked derived in the spec): each capacity is the largest text length whose bits fit the data
codewords. -/
def Obligations.CapacityIsLargestFit : Prop :=
  ∀ (mode : Mode) (v : Version) (l : Level) (n : Nat),
    n ≤ capacity mode v l ↔ bitCount mode n ≤ 8 * dataCodewords v l

/-- R185: the overflow check cannot fire for a text that passed SELECT with the same SEL and TEXT. -/
def Obligations.SelectedTextFits : Prop :=
  ∀ (lc : Byte) (s t u : State), s.err = false → exec (.select lc) s = .next t → t.err = false →
    exec .bitstr t = .next u → u.err = false ∨ u.errcode = some .invalidCharacter

/-- R186 (marked derived in the spec): after a BITSTR that did not fault, the first data codeword's high
nibble is the mode indicator, never 0. -/
def Obligations.FirstCodewordHoldsModeIndicator : Prop :=
  ∀ s t : State, s.err = false → exec .bitstr s = .next t → t.err = false →
    (t.readByte 0x200).extractLsb' 4 4 = match s.sel.mode with | .numeric => 1#4 | .alphanumeric => 2#4

/-! ### Interleaving (43_interleave) -/

/-- R200, R203, R204, R206: ECCIL's fault, and otherwise the STREAM bits, STREAM_LEN, the ECC bytes, block
after block, and WINNER.VALID; nothing else changes. -/
def Obligations.EccilWritesStream : Prop :=
  decode 0x00000022#32 = .ok .eccil ∧
  ∀ s : State,
    (s.sel.version = none →
      exec .eccil s = .next { s with err := true, errcode := some .sequenceError, inflight := none }) ∧
    ∀ v d, s.sel.version = some v →
      d = (List.range (dataCodewords v s.sel.level)).map (fun i => s.readByte (0x200 + i)) →
      ∃ t, exec .eccil s = .next t ∧
        t = { s with
              mem := t.mem
              streamLen := BitVec.ofNat 10 (finalStream v s.sel.level s.clean d).length
              winnerValid := false
              done := true
              inflight := none } ∧
        (∀ i < 576, (t.readByte (0x300 + i / 8)).getLsbD (7 - i % 8) =
          (finalStream v s.sel.level s.clean d).getD i false) ∧
        (∀ b j, b < blocks v s.sel.level → j < blockErrors v s.sel.level →
          t.readByte (0x240 + b * blockErrors v s.sel.level + j) =
            (rsDiv ((d.drop (b * blockData v s.sel.level)).take (blockData v s.sel.level))
              (blockErrors v s.sel.level) s.clean).getD j 0) ∧
        (∀ a, ¬ (0x300 ≤ a ∧ a < 0x348) → ¬ (0x240 ≤ a ∧ a < 0x240 + errorCodewords v s.sel.level) →
          t.readByte a = s.readByte a)

/-- R205: one block is its data codewords followed by its error codewords; two blocks alternate, data
codewords first; each codeword is rendered as 8 bits, most significant first. -/
def Obligations.InterleavingOrder : Prop :=
  ∀ (v : Version) (l : Level) (clean : Bool) (d : List Byte), d.length = dataCodewords v l →
    (∀ k j, k < (codewordSequence v l clean d).length → j < 8 →
      (finalStream v l clean d).getD (8 * k + j) false =
        ((codewordSequence v l clean d).getD k 0).getLsbD (7 - j)) ∧
    (blocks v l = 1 → codewordSequence v l clean d = d ++ rsDiv d (errorCodewords v l) clean) ∧
    (blocks v l = 2 →
      ∀ (d0 d1 e0 e1 : List Byte), d0 = d.take (blockData v l) → d1 = d.drop (blockData v l) →
        e0 = rsDiv d0 (blockErrors v l) clean → e1 = rsDiv d1 (blockErrors v l) clean →
        (∀ i < blockData v l,
          (codewordSequence v l clean d).getD (2 * i) 0 = d0.getD i 0 ∧
          (codewordSequence v l clean d).getD (2 * i + 1) 0 = d1.getD i 0) ∧
        (∀ j < blockErrors v l,
          (codewordSequence v l clean d).getD (2 * blockData v l + 2 * j) 0 = e0.getD j 0 ∧
          (codewordSequence v l clean d).getD (2 * blockData v l + 2 * j + 1) 0 = e1.getD j 0))

/-- R202 and the invariant of R75: after the codewords come 7 zero bits above version 1 and none in version 1,
so the final stream has 208, 359 or 567 bits by version, which is the length of the version's placement
path. -/
def Obligations.FinalStreamFillsPath : Prop :=
  ∀ (v : Version) (l : Level) (clean : Bool) (d : List Byte), d.length = dataCodewords v l →
    (finalStream v l clean d).length = 8 * (dataCodewords v l + errorCodewords v l) + remainderBits v ∧
    (finalStream v l clean d).drop (8 * (dataCodewords v l + errorCodewords v l)) =
      (match v with | .v1 => [] | .v2 => List.replicate 7 false | .v3 => List.replicate 7 false) ∧
    (finalStream v l clean d).length = (match v with | .v1 => 208 | .v2 => 359 | .v3 => 567) ∧
    (finalStream v l clean d).length = pathLength v

/-- R224 (R280): with ECCIL's output the stream length and the path length always match, so a BUILD right
after an ECCIL that did not fault does not fault. -/
def Obligations.BuildAcceptsEccilOutput : Prop :=
  ∀ s t u : State, s.err = false → exec .eccil s = .next t → t.err = false →
    exec .build t = .next u → u.err = false

/-! ### The matrix (20_memory, 44_matrix) -/

/-- R225: BUILD's faults in order, and otherwise BASE: stamp on the reserved cells, stream bit i on cell
PATH[v][i], 0 outside N×N; nothing else changes. -/
def Obligations.BuildPlacesStream : Prop :=
  decode 0x00000023#32 = .ok .build ∧
  ∀ s : State,
    (s.sel.version = none →
      exec .build s = .next { s with err := true, errcode := some .sequenceError, inflight := none }) ∧
    ∀ v, s.sel.version = some v →
      (s.streamLen.toNat ≠ (path v).length →
        exec .build s =
          .next { s with err := true, errcode := some .tableInconsistency, inflight := none }) ∧
      (s.streamLen.toNat = (path v).length →
        ∃ t, exec .build s = .next t ∧
          t = { s with mem := t.mem, winnerValid := false, done := true, inflight := none } ∧
          (∀ i r c, (path v)[i]? = some (r, c) →
            Matrix.get (t.readMatrix .base) r c = (s.readByte (0x300 + i / 8)).getLsbD (7 - i % 8)) ∧
          (∀ r c, r < v.side → c < v.side → reserved v r c = true →
            Matrix.get (t.readMatrix .base) r c = stampDark v r c) ∧
          (∀ r c, v.side ≤ r ∨ v.side ≤ c → Matrix.get (t.readMatrix .base) r c = false) ∧
          (∀ a, ¬ (0x400 ≤ a ∧ a < 0x474) → t.readByte a = s.readByte a))

/-- R223 (marked derived in the spec), R75: the placement path visits every non-reserved cell exactly once
and no reserved cell. -/
def Obligations.PathVisitsFreeCellsOnce : Prop :=
  ∀ v : Version, (path v).Nodup ∧
    ∀ r c, (r, c) ∈ path v ↔ r < v.side ∧ c < v.side ∧ reserved v r c = false

/-! ### Masks and scores (45_mask_score) -/

/-- R240: MASKSC's fault, and otherwise the eight candidates, their scores, which the 32-bit registers hold
exactly, and the winner; nothing else changes. A score is the sum of four rules: R244, R245, a line's maximal
runs of 5 or more add their length less 2; R246, an anchor that grows to width w and height h adds
3·(w−1)·(h−1); R247, each window with one of the two patterns adds 40; and the balance penalty of the
dark cells (its values: BalancePenaltyValues). -/
def Obligations.MaskscScoresCandidates : Prop :=
  decode 0x00000024#32 = .ok .masksc ∧
  (∀ s : State,
    (s.sel.version = none →
      exec .masksc s = .next { s with err := true, errcode := some .sequenceError, inflight := none }) ∧
    ∀ v, s.sel.version = some v →
      ∃ t, exec .masksc s = .next t ∧
        t = { s with
              mem := t.mem
              score := t.score
              winnerMask := selectMask (candidateScore (s.readMatrix .base) v)
              winnerValid := true
              done := true
              inflight := none } ∧
        (∀ m : Fin 8, (t.score[m]).toNat = candidateScore (s.readMatrix .base) v m) ∧
        (∀ (m : Fin 8) (r c : Nat), Matrix.get (t.readMatrix (.cand m)) r c =
          (decide (r < v.side) && decide (c < v.side) && candidateCell (s.readMatrix .base) v m r c)) ∧
        (∀ a, (∀ m : Fin 8, ¬ (0x600 + 0x80 * m.val ≤ a ∧ a < 0x600 + 0x80 * m.val + 116)) →
          t.readByte a = s.readByte a)) ∧
  (∀ (b : Matrix) (v : Version) (m : Fin 8), candidateScore b v m =
    rule1 (candidate b v m) v.side + rule2 (candidate b v m) v.side + rule3 (candidate b v m) v.side +
      balancePenalty (sumTo v.side (fun r => sumTo v.side (fun c =>
        (Matrix.get (candidate b v m) r c).toNat))) v.side) ∧
  (∀ (m : Matrix) (n : Nat), rule1 m n =
    sumTo n (fun r => linePenalty1 ((List.range n).map (fun c => Matrix.get m r c))) +
      sumTo n (fun c => linePenalty1 ((List.range n).map (fun r => Matrix.get m r c)))) ∧
  (∀ line : List Bool, ∃ runs, cutsIntoRuns line runs ∧
    linePenalty1 line = (runs.map (fun p => if 5 ≤ p.2 then p.2 - 2 else 0)).sum) ∧
  (∀ (m : Matrix) (n : Nat), rule2 m n = sumTo n (fun r => sumTo n (fun c => blockPenalty m n r c))) ∧
  (∀ (m : Matrix) (n r c : Nat), r < n → c < n → ∃ k w h, growsTo m n r c k w h ∧
    blockPenalty m n r c = 3 * (w - 1) * (h - 1)) ∧
  (∀ (m : Matrix) (n : Nat), rule3 m n =
    sumTo n (fun r => sumTo (n - 10) (fun i => if patternAt (fun c => Matrix.get m r c) i then 40 else 0)) +
      sumTo n (fun c => sumTo (n - 10) (fun i => if patternAt (fun r => Matrix.get m r c) i then 40 else 0)))

/-- R243: in every candidate a reserved cell is the unmasked cell, and any other cell is flipped iff the
mask's predicate is true there. -/
def Obligations.CandidateKeepsReservedCells : Prop :=
  ∀ (b : Matrix) (v : Version) (m : Fin 8) (r c : Nat), r < v.side → c < v.side →
    (reserved v r c = true → Matrix.get (candidate b v m) r c = Matrix.get b r c) ∧
    (reserved v r c = false → maskPredicate m r c = true →
      Matrix.get (candidate b v m) r c = !Matrix.get b r c) ∧
    (reserved v r c = false → maskPredicate m r c = false →
      Matrix.get (candidate b v m) r c = Matrix.get b r c)

/-- R251: the strictly lowest total score wins, ties go to the lowest mask id. -/
def Obligations.LowestScoreWins : Prop :=
  ∀ (sc : Fin 8 → Nat) (m : Fin 8),
    selectMask sc = m ↔ (∀ j, sc m ≤ sc j) ∧ (∀ j, j < m → sc m < sc j)

/-- R250 (marked derived in the spec): every score of every matrix is below 2^20, so a SCORE register never
overflows. -/
def Obligations.ScoresFitTheirRegister : Prop :=
  ∀ (m : Matrix) (v : Version), score m v.side < 2 ^ 20

/-- R248: rule 4 is a multiple of 10, is 0 for 45 ≤ p < 55, 90 for D = 0 and 100 for D = N². -/
def Obligations.BalancePenaltyValues : Prop :=
  ∀ (d n : Nat), 0 < n → d ≤ n ^ 2 →
    balancePenalty d n % 10 = 0 ∧ balancePenalty d n ≤ 100 ∧
    (45 * n ^ 2 ≤ 100 * d → 100 * d < 55 * n ^ 2 → balancePenalty d n = 0) ∧
    (d = 0 → balancePenalty d n = 90) ∧ (d = n ^ 2 → balancePenalty d n = 100)

/-- R252: MASKSC's scores and winner are functions of the version and the N×N cells of BASE alone. -/
def Obligations.MaskscDependsOnBaseAlone : Prop :=
  ∀ (s s' t t' : State) (v : Version), s.sel.version = some v → s'.sel.version = some v →
    (∀ r c, r < v.side → c < v.side →
      Matrix.get (s.readMatrix .base) r c = Matrix.get (s'.readMatrix .base) r c) →
    exec .masksc s = .next t → exec .masksc s' = .next t' →
    t.score = t'.score ∧ t.winnerMask = t'.winnerMask

/-! ### Format information and the pipeline (46_format_pipeline) -/

/-- R270: FMT's fault, and otherwise OUT: the format string in both copies, the winning candidate elsewhere,
0 outside N×N; FORMAT and OUT_VALID; nothing else changes. -/
def Obligations.FmtWritesFormatString : Prop :=
  decode 0x00000025#32 = .ok .fmt ∧
  ∀ s : State,
    (s.sel.version = none ∨ s.winnerValid = false →
      exec .fmt s = .next { s with err := true, errcode := some .sequenceError, inflight := none }) ∧
    ∀ v f, s.sel.version = some v → s.winnerValid = true → f = formatString s.sel.level s.winnerMask →
      ∃ t, exec .fmt s = .next t ∧
        t = { s with mem := t.mem, format := f, outValid := true, done := true, inflight := none } ∧
        (∀ i < 15, ∀ r c, (r, c) = formatCellA i ∨ (r, c) = formatCellB v.side i →
          Matrix.get (t.readMatrix .out) r c = f.getLsbD i) ∧
        (∀ r c, r < v.side → c < v.side →
          (∀ i < 15, (r, c) ≠ formatCellA i ∧ (r, c) ≠ formatCellB v.side i) →
          Matrix.get (t.readMatrix .out) r c = Matrix.get (s.readMatrix (.cand s.winnerMask)) r c) ∧
        (∀ r c, v.side ≤ r ∨ v.side ≤ c → Matrix.get (t.readMatrix .out) r c = false) ∧
        (∀ a, ¬ (0x500 ≤ a ∧ a < 0x574) → t.readByte a = s.readByte a)

/-- R281 (marked derived in the spec), R280: from an idle state, ENCODE ends in the state the six stage
commands end in when they are issued one after another up to the first fault, except for CMD and LAST_OP. -/
def Obligations.EncodeEqualsItsStages : Prop :=
  ∀ (lc : Byte) (s t : State), s.inflight = none →
    t = runStages [.select lc, .bitstr, .eccil, .build, .masksc, .fmt] s →
    { runCommand (.encode lc) s with cmd := t.cmd, lastOp := t.lastOp } = t

/-- R280: ENCODE with a level letter on a text that some mode encodes and that fits version 3 completes with
DONE and a valid output, in SELECT's version, mode and level, and with that level's format string. -/
def Obligations.EncodeSucceedsOnEncodableText : Prop :=
  ∀ (lc : Byte) (s : State) (l : Level), levelOfByte lc = some l → s.textLen.toNat ≤ 128 →
    (∀ i < s.textLen.toNat, encodableByte (s.readByte (0x100 + i)) = true) →
    s.textLen.toNat ≤ capacity (modeOfText s.text) .v3 l →
    ∃ t, exec (.encode lc) s = .next t ∧ t.done = true ∧ t.err = s.err ∧ t.errcode = s.errcode ∧
      t.inflight = none ∧ t.outValid = true ∧ t.winnerValid = true ∧
      t.sel.version = smallestVersion (modeOfText s.text) l s.textLen.toNat ∧
      t.sel.mode = modeOfText s.text ∧ t.sel.level = l ∧ t.format = formatString l t.winnerMask

/-- R280: ENCODE raises InvalidLevel, CapacityExceeded or InvalidCharacter and no other fault, and no fault of
ENCODE makes an output valid. -/
def Obligations.EncodeFaultsLeaveNoOutput : Prop :=
  ∀ (lc : Byte) (s t : State), s.err = false → exec (.encode lc) s = .next t → t.err = true →
    (t.errcode = some .invalidLevel ∨ t.errcode = some .capacityExceeded ∨
      t.errcode = some .invalidCharacter) ∧
    t.outValid = s.outValid ∧ t.done = s.done

/-! ### Faults (60_exceptions) -/

/-- R302: faults are precise. A command other than ENCODE that faults changes nothing but the fault record and
the end of its flight. -/
def Obligations.FaultsArePrecise : Prop :=
  ∀ (i : Instr) (s t : State), (∀ lc, i ≠ .encode lc) → s.err = false → exec i s = .next t → t.err = true →
    ∃ c, t = { s with err := true, errcode := some c, inflight := none }

/-- R301: the fault codes and which commands raise each. -/
def Obligations.FaultCodesByCommand : Prop :=
  (FaultCode.capacityExceeded.num = 1 ∧ FaultCode.invalidCharacter.num = 2 ∧
    FaultCode.invalidLevel.num = 3 ∧ FaultCode.tableInconsistency.num = 4 ∧
    FaultCode.illegalCommand.num = 5 ∧ FaultCode.illegalOperand.num = 6 ∧
    FaultCode.sequenceError.num = 7) ∧
  ∀ (i : Instr) (s t : State) (c : FaultCode), s.err = false → exec i s = .next t → t.err = true →
    t.errcode = some c →
    match c with
    | .capacityExceeded => (∃ lc, i = .select lc) ∨ i = .bitstr ∨ ∃ lc, i = .encode lc
    | .invalidCharacter => i = .bitstr ∨ ∃ lc, i = .encode lc
    | .invalidLevel => (∃ lc, i = .select lc) ∨ ∃ lc, i = .encode lc
    | .tableInconsistency => i = .build
    | .illegalCommand => False
    | .illegalOperand => (∃ a, i = .gflog a) ∨ ∃ k e, i = .rsenc k e
    | .sequenceError => i = .bitstr ∨ i = .eccil ∨ i = .build ∨ i = .masksc ∨ i = .fmt

/-! ### The whole machine -/

/-- R333 (marked derived in the spec): a command changes only bytes of the buffers the table gives it, TEXT being
none of them, and no command touches CTRL.RS_CLEAN, CMD, LAST_OP or TEXT_LEN. Nor does it touch the fields
that are the model's own: epochs, draws, latency, bus and answer (log entries 2, 3, 4 and 5). -/
def Obligations.CommandsKeepOtherState : Prop :=
  ∀ (i : Instr) (s t : State), exec i s = .next t →
    (∀ a, (∀ b ∈ writtenBuffers i, b.holds a = false) → t.readByte a = s.readByte a) ∧
    t.rsClean = s.rsClean ∧ t.cmd = s.cmd ∧ t.lastOp = s.lastOp ∧ t.textLen = s.textLen ∧
    t.epochs = s.epochs ∧ t.draws = s.draws ∧ t.latency = s.latency ∧ t.bus = s.bus ∧ t.answer = s.answer

/-- The invariant of log entry 13 (R25, R26, R30, R36, R38, R40, R302) holds after power-on reset. -/
def Obligations.InvariantHoldsAtReset : Prop :=
  State.Inv State.reset

/-- The invariant is kept by every step from every state that meets it: memory stays canonical, LAST_OP
follows CMD, BUSY, DONE and ERR stay exclusive, ERRCODE follows ERR, a valid winner has a version, and no
fault leaves a pipeline command's output valid (R25, R26, R30, R36, R38, R40, R302). -/
def Obligations.StepKeepsInvariant : Prop :=
  ∀ s t : State, State.Inv s → step s = .next t → State.Inv t

/-! ### The host's accesses (10_state, 20_memory, 60_exceptions, 70_reset_and_hazards) -/

/-- R308: exactly which accesses are refused, and that a refused one changes nothing but the bus's answer
(the answer is a field of the model's own, log entry 5). -/
def Obligations.BusErrorsChangeNothing : Prop :=
  (∀ (s : State) (width off : Nat),
    (width ≠ 32 ∨ ¬ mappedOffset off → s.hostRead width off = { s with answer := some .busError }) ∧
    (width = 32 → mappedOffset off → (s.hostRead width off).answer ≠ some .busError)) ∧
  (∀ (s : State) (width off : Nat) (v : Word),
    (width ≠ 32 ∨ refusedWrite s off → s.hostWrite width off v = { s with answer := some .busError }) ∧
    (width = 32 → ¬ refusedWrite s off → (s.hostWrite width off v).answer = some .accepted))

/-- R342: while BUSY a read of a mapped offset other than ID, CTRL, STATUS and CMD returns a free value
(whatever Config.busyRead is, log entry 3) and changes nothing else; those four are exact. -/
def Obligations.BusyReadsAreDraws : Prop :=
  ∀ (s : State) (f : InFlight) (off : Nat), s.inflight = some f → mappedOffset off →
    (¬ exactOffset off →
      s.hostRead 32 off =
        { s with draws := s.draws + 1, answer := some (.data (Config.busyRead s.draws)) }) ∧
    (off = 0x000 → s.hostRead 32 off = { s with answer := some (.data 0x51524331#32) }) ∧
    (off = 0x004 → s.hostRead 32 off = { s with answer := some (.data (if s.rsClean then 1 else 0)) }) ∧
    (off = 0x008 → s.hostRead 32 off = { s with answer := some (.data s.statusWord) }) ∧
    (off = 0x00C → s.hostRead 32 off = { s with answer := some (.data s.cmd) })

/-- R25: the fields of STATUS as the host reads it, and the bits that read 0. -/
def Obligations.StatusFields : Prop :=
  ∀ s : State,
    s.statusWord.getLsbD 0 = s.inflight.isSome ∧ s.statusWord.getLsbD 1 = s.done ∧
    s.statusWord.getLsbD 2 = s.err ∧ s.statusWord.getLsbD 3 = s.outValid ∧
    s.statusWord.extractLsb' 4 4 = 0 ∧ s.statusWord.extractLsb' 8 4 = errcodeBits s.errcode ∧
    s.statusWord.extractLsb' 12 4 = 0 ∧ s.statusWord.extractLsb' 16 8 = s.lastOp ∧
    s.statusWord.extractLsb' 24 8 = 0

/-- R23 to R35: the registers the host reads while idle. STATUS is the word whose fields StatusFields gives, SEL
has its three fields and 0 elsewhere, INFO and PATH_LEN are computed from SEL. -/
def Obligations.IdleRegisterReads : Prop :=
  ∀ s : State, s.inflight = none →
    s.hostRead 32 0x000 = { s with answer := some (.data 0x51524331#32) } ∧
    s.hostRead 32 0x004 = { s with answer := some (.data (if s.rsClean then 1 else 0)) } ∧
    s.hostRead 32 0x008 = { s with answer := some (.data s.statusWord) } ∧
    s.hostRead 32 0x00C = { s with answer := some (.data s.cmd) } ∧
    (∃ w, s.hostRead 32 0x018 = { s with answer := some (.data w) } ∧
      w.extractLsb' 0 2 = (match s.sel.version with
        | none => 0#2 | some .v1 => 1#2 | some .v2 => 2#2 | some .v3 => 3#2) ∧
      w.getLsbD 4 = (match s.sel.mode with | .numeric => false | .alphanumeric => true) ∧
      w.extractLsb' 8 2 = (match s.sel.level with
        | .levelL => 0#2 | .levelM => 1#2 | .levelQ => 2#2 | .levelH => 3#2) ∧
      w &&& 0x00000313#32 = w) ∧
    s.hostRead 32 0x010 = { s with answer := some (.data (s.result.setWidth 32)) } ∧
    s.hostRead 32 0x014 = { s with answer := some (.data (s.textLen.setWidth 32)) } ∧
    s.hostRead 32 0x040 = { s with answer := some (.data (s.format.setWidth 32)) } ∧
    s.hostRead 32 0x048 = { s with answer := some (.data (s.streamLen.setWidth 32)) } ∧
    (∀ m : Fin 8, s.hostRead 32 (0x020 + 4 * m.val) = { s with answer := some (.data s.score[m]) }) ∧
    (∃ w, s.hostRead 32 0x01C = { s with answer := some (.data w) } ∧
      w.toNat = s.winnerMask.val + 256 * s.winnerValid.toNat) ∧
    (∃ w, s.hostRead 32 0x044 = { s with answer := some (.data w) } ∧
      w.toNat = match s.sel.version with
        | none => 0
        | some v => dataCodewords v s.sel.level + 2 ^ 8 * errorCodewords v s.sel.level +
            2 ^ 16 * blocks v s.sel.level + 2 ^ 24 * v.side) ∧
    (∃ w, s.hostRead 32 0x04C = { s with answer := some (.data w) } ∧
      w.toNat = match s.sel.version with | none => 0 | some .v1 => 208 | some .v2 => 359 | some .v3 => 567)

/-- R28, R29, R34: host writes of TEXT_LEN, SEL and STREAM_LEN while idle keep the named bits, ignore the
others, and only the write of SEL clears WINNER.VALID. -/
def Obligations.IdleRegisterWrites : Prop :=
  ∀ (s : State) (w : Word), s.inflight = none →
    s.hostWrite 32 0x014 w = { s with textLen := w.extractLsb' 0 8, answer := some .accepted } ∧
    s.hostWrite 32 0x048 w = { s with streamLen := w.extractLsb' 0 10, answer := some .accepted } ∧
    (∃ x, s.hostWrite 32 0x018 w = { s with sel := x, winnerValid := false, answer := some .accepted } ∧
      selWord x = w &&& 0x00000313#32)

/-- R37, R38, R80: while idle, a word written to TEXT, DATA, ECC or STREAM reads back, byte i of it at the
i-th byte, a BASE row reads back without bits 31..29, and no other byte changes. That a BASE row has bytes,
laid out as a word's, is the model's choice (log entry 1, DESIGN CHOICE). -/
def Obligations.BufferWriteReadsBack : Prop :=
  ∀ (s : State) (off : Nat) (w x : Word), s.inflight = none → writableOffset off → 0x100 ≤ off →
    x = (if 0x400 ≤ off then w &&& 0x1FFFFFFF#32 else w) →
    ∃ t, s.hostWrite 32 off w = t ∧ t = { s with mem := t.mem, answer := some .accepted } ∧
      t.hostRead 32 off = { t with answer := some (.data x) } ∧
      (∀ i < 4, t.readByte (off + i) = x.extractLsb' (8 * i) 8) ∧
      (∀ a, ¬ (off ≤ a ∧ a < off + 4) → t.readByte a = s.readByte a)

/-- R23, R341: a write to CTRL with bit 1 = 0 sets RS_CLEAN alone, busy or idle, so the command in flight
keeps the bit latched with it. -/
def Obligations.CtrlWriteSetsRsClean : Prop :=
  ∀ (s : State) (w : Word), w.getLsbD 1 = false →
    s.hostWrite 32 0x004 w = { s with rsClean := w.getLsbD 0, answer := some .accepted } ∧
    (∀ f, s.inflight = some f → (s.hostWrite 32 0x004 w).clean = f.clean)

/-- R330, R332, R333: a soft reset clears every register, abandons the command in flight, keeps what every byte
of the buffers the command does not write reads as, listed or unspecified, all of TEXT among them, and makes
every cell of those it writes unspecified: no longer listed, and showing a later draw (epochs, log
entries 2 and 14). Nothing is said of the field latency (log entry 4); draws, bus and answer are the
model's own (log entries 3 and 5). -/
def Obligations.SoftResetClearsRegisters : Prop :=
  ∀ (s : State) (w : Word), w.getLsbD 1 = true →
    ∃ t, s.hostWrite 32 0x004 w = t ∧
      t = { State.reset with
            mem := t.mem
            epochs := t.epochs
            draws := s.draws
            latency := t.latency
            bus := s.bus
            answer := some .accepted } ∧
      (s.inflight = none → t.mem = s.mem ∧ t.epochs = s.epochs) ∧
      (∀ a, (∀ f i b, s.inflight = some f → decode f.word = .ok i → b ∈ writtenBuffers i →
          b.holds a = false) →
        Memory.lookup t.mem a = Memory.lookup s.mem a ∧ t.readByte a = s.readByte a) ∧
      (∀ a, 0x100 ≤ a → a < 0x180 → t.readByte a = s.readByte a) ∧
      (∀ f i b, s.inflight = some f → decode f.word = .ok i → b ∈ writtenBuffers i →
        s.epochs.of b < t.epochs.of b ∧ ∀ a, b.holds a = true → Memory.lookup t.mem a = none)

/-- R42, R331: after power-on reset every register reads its reset value, nothing is in flight, and no byte
of a buffer is specified, which in the model is that memory lists none (log entry 2). -/
def Obligations.ResetValues : Prop :=
  State.reset.inflight = none ∧ State.reset.mem = [] ∧
  (State.reset.hostRead 32 0x000).answer = some (.data 0x51524331#32) ∧
  ∀ off, mappedOffset off → 0x000 < off → off < 0x050 →
    (State.reset.hostRead 32 off).answer = some (.data 0)

/-- R82: a read has no side effect: it changes nothing but the bus's answer and the count of draws (fields of
the model's own, log entries 3 and 5), and while idle reading again gives the same answer. -/
def Obligations.ReadsHaveNoSideEffects : Prop :=
  ∀ (s : State) (width off : Nat),
    (∃ n a, s.hostRead width off = { s with draws := n, answer := a }) ∧
    (s.inflight = none → (s.hostRead width off).hostRead width off = s.hostRead width off)
end

