-- ==== Sys2Proof/Laws/State.lean ====
section
/-! SUPPORT. One lemma per field per named update of State, each true by rfl, so that no later proof unfolds a
record update. -/

namespace Sys2Proof.Machine

/-! ### complete -/

@[simp] theorem State.complete_rsClean (s : State) : (s.complete).rsClean = s.rsClean := rfl
@[simp] theorem State.complete_done (s : State) : (s.complete).done = true := rfl
@[simp] theorem State.complete_err (s : State) : (s.complete).err = s.err := rfl
@[simp] theorem State.complete_outValid (s : State) : (s.complete).outValid = s.outValid := rfl
@[simp] theorem State.complete_errcode (s : State) : (s.complete).errcode = s.errcode := rfl
@[simp] theorem State.complete_lastOp (s : State) : (s.complete).lastOp = s.lastOp := rfl
@[simp] theorem State.complete_cmd (s : State) : (s.complete).cmd = s.cmd := rfl
@[simp] theorem State.complete_result (s : State) : (s.complete).result = s.result := rfl
@[simp] theorem State.complete_textLen (s : State) : (s.complete).textLen = s.textLen := rfl
@[simp] theorem State.complete_sel (s : State) : (s.complete).sel = s.sel := rfl
@[simp] theorem State.complete_winnerMask (s : State) : (s.complete).winnerMask = s.winnerMask := rfl
@[simp] theorem State.complete_winnerValid (s : State) : (s.complete).winnerValid = s.winnerValid := rfl
@[simp] theorem State.complete_score (s : State) : (s.complete).score = s.score := rfl
@[simp] theorem State.complete_format (s : State) : (s.complete).format = s.format := rfl
@[simp] theorem State.complete_streamLen (s : State) : (s.complete).streamLen = s.streamLen := rfl
@[simp] theorem State.complete_mem (s : State) : (s.complete).mem = s.mem := rfl
@[simp] theorem State.complete_inflight (s : State) : (s.complete).inflight = none := rfl
@[simp] theorem State.complete_epochs (s : State) : (s.complete).epochs = s.epochs := rfl
@[simp] theorem State.complete_draws (s : State) : (s.complete).draws = s.draws := rfl
@[simp] theorem State.complete_latency (s : State) : (s.complete).latency = s.latency := rfl
@[simp] theorem State.complete_bus (s : State) : (s.complete).bus = s.bus := rfl
@[simp] theorem State.complete_answer (s : State) : (s.complete).answer = s.answer := rfl

/-! ### takeFault -/

@[simp] theorem State.takeFault_rsClean (s : State) (code : FaultCode) : (s.takeFault code).rsClean = s.rsClean := rfl
@[simp] theorem State.takeFault_done (s : State) (code : FaultCode) : (s.takeFault code).done = s.done := rfl
@[simp] theorem State.takeFault_err (s : State) (code : FaultCode) : (s.takeFault code).err = true := rfl
@[simp] theorem State.takeFault_outValid (s : State) (code : FaultCode) : (s.takeFault code).outValid = s.outValid := rfl
@[simp] theorem State.takeFault_errcode (s : State) (code : FaultCode) : (s.takeFault code).errcode = some code := rfl
@[simp] theorem State.takeFault_lastOp (s : State) (code : FaultCode) : (s.takeFault code).lastOp = s.lastOp := rfl
@[simp] theorem State.takeFault_cmd (s : State) (code : FaultCode) : (s.takeFault code).cmd = s.cmd := rfl
@[simp] theorem State.takeFault_result (s : State) (code : FaultCode) : (s.takeFault code).result = s.result := rfl
@[simp] theorem State.takeFault_textLen (s : State) (code : FaultCode) : (s.takeFault code).textLen = s.textLen := rfl
@[simp] theorem State.takeFault_sel (s : State) (code : FaultCode) : (s.takeFault code).sel = s.sel := rfl
@[simp] theorem State.takeFault_winnerMask (s : State) (code : FaultCode) : (s.takeFault code).winnerMask = s.winnerMask := rfl
@[simp] theorem State.takeFault_winnerValid (s : State) (code : FaultCode) : (s.takeFault code).winnerValid = s.winnerValid := rfl
@[simp] theorem State.takeFault_score (s : State) (code : FaultCode) : (s.takeFault code).score = s.score := rfl
@[simp] theorem State.takeFault_format (s : State) (code : FaultCode) : (s.takeFault code).format = s.format := rfl
@[simp] theorem State.takeFault_streamLen (s : State) (code : FaultCode) : (s.takeFault code).streamLen = s.streamLen := rfl
@[simp] theorem State.takeFault_mem (s : State) (code : FaultCode) : (s.takeFault code).mem = s.mem := rfl
@[simp] theorem State.takeFault_inflight (s : State) (code : FaultCode) : (s.takeFault code).inflight = none := rfl
@[simp] theorem State.takeFault_epochs (s : State) (code : FaultCode) : (s.takeFault code).epochs = s.epochs := rfl
@[simp] theorem State.takeFault_draws (s : State) (code : FaultCode) : (s.takeFault code).draws = s.draws := rfl
@[simp] theorem State.takeFault_latency (s : State) (code : FaultCode) : (s.takeFault code).latency = s.latency := rfl
@[simp] theorem State.takeFault_bus (s : State) (code : FaultCode) : (s.takeFault code).bus = s.bus := rfl
@[simp] theorem State.takeFault_answer (s : State) (code : FaultCode) : (s.takeFault code).answer = s.answer := rfl

/-! ### accept -/

@[simp] theorem State.accept_rsClean (s : State) (w : Word) : (s.accept w).rsClean = s.rsClean := rfl
@[simp] theorem State.accept_done (s : State) (w : Word) : (s.accept w).done = false := rfl
@[simp] theorem State.accept_err (s : State) (w : Word) : (s.accept w).err = false := rfl
@[simp] theorem State.accept_outValid (s : State) (w : Word) : (s.accept w).outValid = if isPipelineWord w then false else s.outValid := rfl
@[simp] theorem State.accept_errcode (s : State) (w : Word) : (s.accept w).errcode = none := rfl
@[simp] theorem State.accept_lastOp (s : State) (w : Word) : (s.accept w).lastOp = CommandWord.opc w := rfl
@[simp] theorem State.accept_cmd (s : State) (w : Word) : (s.accept w).cmd = w := rfl
@[simp] theorem State.accept_result (s : State) (w : Word) : (s.accept w).result = s.result := rfl
@[simp] theorem State.accept_textLen (s : State) (w : Word) : (s.accept w).textLen = s.textLen := rfl
@[simp] theorem State.accept_sel (s : State) (w : Word) : (s.accept w).sel = s.sel := rfl
@[simp] theorem State.accept_winnerMask (s : State) (w : Word) : (s.accept w).winnerMask = s.winnerMask := rfl
@[simp] theorem State.accept_winnerValid (s : State) (w : Word) : (s.accept w).winnerValid = s.winnerValid := rfl
@[simp] theorem State.accept_score (s : State) (w : Word) : (s.accept w).score = s.score := rfl
@[simp] theorem State.accept_format (s : State) (w : Word) : (s.accept w).format = s.format := rfl
@[simp] theorem State.accept_streamLen (s : State) (w : Word) : (s.accept w).streamLen = s.streamLen := rfl
@[simp] theorem State.accept_mem (s : State) (w : Word) : (s.accept w).mem = s.mem := rfl
@[simp] theorem State.accept_inflight (s : State) (w : Word) : (s.accept w).inflight = some { word := w, clean := s.rsClean } := rfl
@[simp] theorem State.accept_epochs (s : State) (w : Word) : (s.accept w).epochs = s.epochs := rfl
@[simp] theorem State.accept_draws (s : State) (w : Word) : (s.accept w).draws = s.draws := rfl
@[simp] theorem State.accept_latency (s : State) (w : Word) : (s.accept w).latency = s.latency := rfl
@[simp] theorem State.accept_bus (s : State) (w : Word) : (s.accept w).bus = s.bus := rfl
@[simp] theorem State.accept_answer (s : State) (w : Word) : (s.accept w).answer = s.answer := rfl

/-! ### issue -/

@[simp] theorem State.issue_rsClean (s : State) (w : Word) : (s.issue w).rsClean = s.rsClean := rfl
@[simp] theorem State.issue_done (s : State) (w : Word) : (s.issue w).done = false := rfl
@[simp] theorem State.issue_err (s : State) (w : Word) : (s.issue w).err = false := rfl
@[simp] theorem State.issue_outValid (s : State) (w : Word) : (s.issue w).outValid = if isPipelineWord w then false else s.outValid := rfl
@[simp] theorem State.issue_errcode (s : State) (w : Word) : (s.issue w).errcode = none := rfl
@[simp] theorem State.issue_lastOp (s : State) (w : Word) : (s.issue w).lastOp = CommandWord.opc w := rfl
@[simp] theorem State.issue_cmd (s : State) (w : Word) : (s.issue w).cmd = w := rfl
@[simp] theorem State.issue_result (s : State) (w : Word) : (s.issue w).result = s.result := rfl
@[simp] theorem State.issue_textLen (s : State) (w : Word) : (s.issue w).textLen = s.textLen := rfl
@[simp] theorem State.issue_sel (s : State) (w : Word) : (s.issue w).sel = s.sel := rfl
@[simp] theorem State.issue_winnerMask (s : State) (w : Word) : (s.issue w).winnerMask = s.winnerMask := rfl
@[simp] theorem State.issue_winnerValid (s : State) (w : Word) : (s.issue w).winnerValid = s.winnerValid := rfl
@[simp] theorem State.issue_score (s : State) (w : Word) : (s.issue w).score = s.score := rfl
@[simp] theorem State.issue_format (s : State) (w : Word) : (s.issue w).format = s.format := rfl
@[simp] theorem State.issue_streamLen (s : State) (w : Word) : (s.issue w).streamLen = s.streamLen := rfl
@[simp] theorem State.issue_mem (s : State) (w : Word) : (s.issue w).mem = s.mem := rfl
@[simp] theorem State.issue_inflight (s : State) (w : Word) : (s.issue w).inflight = some { word := w, clean := s.rsClean } := rfl
@[simp] theorem State.issue_epochs (s : State) (w : Word) : (s.issue w).epochs = s.epochs := rfl
@[simp] theorem State.issue_draws (s : State) (w : Word) : (s.issue w).draws = s.draws + 1 := rfl
@[simp] theorem State.issue_latency (s : State) (w : Word) : (s.issue w).latency = Config.latency s.draws := rfl
@[simp] theorem State.issue_bus (s : State) (w : Word) : (s.issue w).bus = s.bus := rfl
@[simp] theorem State.issue_answer (s : State) (w : Word) : (s.issue w).answer = s.answer := rfl

/-! ### clearWinner -/

@[simp] theorem State.clearWinner_rsClean (s : State) : (s.clearWinner).rsClean = s.rsClean := rfl
@[simp] theorem State.clearWinner_done (s : State) : (s.clearWinner).done = s.done := rfl
@[simp] theorem State.clearWinner_err (s : State) : (s.clearWinner).err = s.err := rfl
@[simp] theorem State.clearWinner_outValid (s : State) : (s.clearWinner).outValid = s.outValid := rfl
@[simp] theorem State.clearWinner_errcode (s : State) : (s.clearWinner).errcode = s.errcode := rfl
@[simp] theorem State.clearWinner_lastOp (s : State) : (s.clearWinner).lastOp = s.lastOp := rfl
@[simp] theorem State.clearWinner_cmd (s : State) : (s.clearWinner).cmd = s.cmd := rfl
@[simp] theorem State.clearWinner_result (s : State) : (s.clearWinner).result = s.result := rfl
@[simp] theorem State.clearWinner_textLen (s : State) : (s.clearWinner).textLen = s.textLen := rfl
@[simp] theorem State.clearWinner_sel (s : State) : (s.clearWinner).sel = s.sel := rfl
@[simp] theorem State.clearWinner_winnerMask (s : State) : (s.clearWinner).winnerMask = s.winnerMask := rfl
@[simp] theorem State.clearWinner_winnerValid (s : State) : (s.clearWinner).winnerValid = false := rfl
@[simp] theorem State.clearWinner_score (s : State) : (s.clearWinner).score = s.score := rfl
@[simp] theorem State.clearWinner_format (s : State) : (s.clearWinner).format = s.format := rfl
@[simp] theorem State.clearWinner_streamLen (s : State) : (s.clearWinner).streamLen = s.streamLen := rfl
@[simp] theorem State.clearWinner_mem (s : State) : (s.clearWinner).mem = s.mem := rfl
@[simp] theorem State.clearWinner_inflight (s : State) : (s.clearWinner).inflight = s.inflight := rfl
@[simp] theorem State.clearWinner_epochs (s : State) : (s.clearWinner).epochs = s.epochs := rfl
@[simp] theorem State.clearWinner_draws (s : State) : (s.clearWinner).draws = s.draws := rfl
@[simp] theorem State.clearWinner_latency (s : State) : (s.clearWinner).latency = s.latency := rfl
@[simp] theorem State.clearWinner_bus (s : State) : (s.clearWinner).bus = s.bus := rfl
@[simp] theorem State.clearWinner_answer (s : State) : (s.clearWinner).answer = s.answer := rfl

/-! ### setResultByte -/

@[simp] theorem State.setResultByte_rsClean (s : State) (b : Byte) : (s.setResultByte b).rsClean = s.rsClean := rfl
@[simp] theorem State.setResultByte_done (s : State) (b : Byte) : (s.setResultByte b).done = s.done := rfl
@[simp] theorem State.setResultByte_err (s : State) (b : Byte) : (s.setResultByte b).err = s.err := rfl
@[simp] theorem State.setResultByte_outValid (s : State) (b : Byte) : (s.setResultByte b).outValid = s.outValid := rfl
@[simp] theorem State.setResultByte_errcode (s : State) (b : Byte) : (s.setResultByte b).errcode = s.errcode := rfl
@[simp] theorem State.setResultByte_lastOp (s : State) (b : Byte) : (s.setResultByte b).lastOp = s.lastOp := rfl
@[simp] theorem State.setResultByte_cmd (s : State) (b : Byte) : (s.setResultByte b).cmd = s.cmd := rfl
@[simp] theorem State.setResultByte_result (s : State) (b : Byte) : (s.setResultByte b).result = b.setWidth 16 := rfl
@[simp] theorem State.setResultByte_textLen (s : State) (b : Byte) : (s.setResultByte b).textLen = s.textLen := rfl
@[simp] theorem State.setResultByte_sel (s : State) (b : Byte) : (s.setResultByte b).sel = s.sel := rfl
@[simp] theorem State.setResultByte_winnerMask (s : State) (b : Byte) : (s.setResultByte b).winnerMask = s.winnerMask := rfl
@[simp] theorem State.setResultByte_winnerValid (s : State) (b : Byte) : (s.setResultByte b).winnerValid = s.winnerValid := rfl
@[simp] theorem State.setResultByte_score (s : State) (b : Byte) : (s.setResultByte b).score = s.score := rfl
@[simp] theorem State.setResultByte_format (s : State) (b : Byte) : (s.setResultByte b).format = s.format := rfl
@[simp] theorem State.setResultByte_streamLen (s : State) (b : Byte) : (s.setResultByte b).streamLen = s.streamLen := rfl
@[simp] theorem State.setResultByte_mem (s : State) (b : Byte) : (s.setResultByte b).mem = s.mem := rfl
@[simp] theorem State.setResultByte_inflight (s : State) (b : Byte) : (s.setResultByte b).inflight = s.inflight := rfl
@[simp] theorem State.setResultByte_epochs (s : State) (b : Byte) : (s.setResultByte b).epochs = s.epochs := rfl
@[simp] theorem State.setResultByte_draws (s : State) (b : Byte) : (s.setResultByte b).draws = s.draws := rfl
@[simp] theorem State.setResultByte_latency (s : State) (b : Byte) : (s.setResultByte b).latency = s.latency := rfl
@[simp] theorem State.setResultByte_bus (s : State) (b : Byte) : (s.setResultByte b).bus = s.bus := rfl
@[simp] theorem State.setResultByte_answer (s : State) (b : Byte) : (s.setResultByte b).answer = s.answer := rfl

/-! ### reply -/

@[simp] theorem State.reply_rsClean (s : State) (a : BusAnswer) : (s.reply a).rsClean = s.rsClean := rfl
@[simp] theorem State.reply_done (s : State) (a : BusAnswer) : (s.reply a).done = s.done := rfl
@[simp] theorem State.reply_err (s : State) (a : BusAnswer) : (s.reply a).err = s.err := rfl
@[simp] theorem State.reply_outValid (s : State) (a : BusAnswer) : (s.reply a).outValid = s.outValid := rfl
@[simp] theorem State.reply_errcode (s : State) (a : BusAnswer) : (s.reply a).errcode = s.errcode := rfl
@[simp] theorem State.reply_lastOp (s : State) (a : BusAnswer) : (s.reply a).lastOp = s.lastOp := rfl
@[simp] theorem State.reply_cmd (s : State) (a : BusAnswer) : (s.reply a).cmd = s.cmd := rfl
@[simp] theorem State.reply_result (s : State) (a : BusAnswer) : (s.reply a).result = s.result := rfl
@[simp] theorem State.reply_textLen (s : State) (a : BusAnswer) : (s.reply a).textLen = s.textLen := rfl
@[simp] theorem State.reply_sel (s : State) (a : BusAnswer) : (s.reply a).sel = s.sel := rfl
@[simp] theorem State.reply_winnerMask (s : State) (a : BusAnswer) : (s.reply a).winnerMask = s.winnerMask := rfl
@[simp] theorem State.reply_winnerValid (s : State) (a : BusAnswer) : (s.reply a).winnerValid = s.winnerValid := rfl
@[simp] theorem State.reply_score (s : State) (a : BusAnswer) : (s.reply a).score = s.score := rfl
@[simp] theorem State.reply_format (s : State) (a : BusAnswer) : (s.reply a).format = s.format := rfl
@[simp] theorem State.reply_streamLen (s : State) (a : BusAnswer) : (s.reply a).streamLen = s.streamLen := rfl
@[simp] theorem State.reply_mem (s : State) (a : BusAnswer) : (s.reply a).mem = s.mem := rfl
@[simp] theorem State.reply_inflight (s : State) (a : BusAnswer) : (s.reply a).inflight = s.inflight := rfl
@[simp] theorem State.reply_epochs (s : State) (a : BusAnswer) : (s.reply a).epochs = s.epochs := rfl
@[simp] theorem State.reply_draws (s : State) (a : BusAnswer) : (s.reply a).draws = s.draws := rfl
@[simp] theorem State.reply_latency (s : State) (a : BusAnswer) : (s.reply a).latency = s.latency := rfl
@[simp] theorem State.reply_bus (s : State) (a : BusAnswer) : (s.reply a).bus = s.bus := rfl
@[simp] theorem State.reply_answer (s : State) (a : BusAnswer) : (s.reply a).answer = some a := rfl

/-! ### writeBytes -/

@[simp] theorem State.writeBytes_rsClean (s : State) (a : Nat) (vs : List Byte) : (s.writeBytes a vs).rsClean = s.rsClean := rfl
@[simp] theorem State.writeBytes_done (s : State) (a : Nat) (vs : List Byte) : (s.writeBytes a vs).done = s.done := rfl
@[simp] theorem State.writeBytes_err (s : State) (a : Nat) (vs : List Byte) : (s.writeBytes a vs).err = s.err := rfl
@[simp] theorem State.writeBytes_outValid (s : State) (a : Nat) (vs : List Byte) : (s.writeBytes a vs).outValid = s.outValid := rfl
@[simp] theorem State.writeBytes_errcode (s : State) (a : Nat) (vs : List Byte) : (s.writeBytes a vs).errcode = s.errcode := rfl
@[simp] theorem State.writeBytes_lastOp (s : State) (a : Nat) (vs : List Byte) : (s.writeBytes a vs).lastOp = s.lastOp := rfl
@[simp] theorem State.writeBytes_cmd (s : State) (a : Nat) (vs : List Byte) : (s.writeBytes a vs).cmd = s.cmd := rfl
@[simp] theorem State.writeBytes_result (s : State) (a : Nat) (vs : List Byte) : (s.writeBytes a vs).result = s.result := rfl
@[simp] theorem State.writeBytes_textLen (s : State) (a : Nat) (vs : List Byte) : (s.writeBytes a vs).textLen = s.textLen := rfl
@[simp] theorem State.writeBytes_sel (s : State) (a : Nat) (vs : List Byte) : (s.writeBytes a vs).sel = s.sel := rfl
@[simp] theorem State.writeBytes_winnerMask (s : State) (a : Nat) (vs : List Byte) : (s.writeBytes a vs).winnerMask = s.winnerMask := rfl
@[simp] theorem State.writeBytes_winnerValid (s : State) (a : Nat) (vs : List Byte) : (s.writeBytes a vs).winnerValid = s.winnerValid := rfl
@[simp] theorem State.writeBytes_score (s : State) (a : Nat) (vs : List Byte) : (s.writeBytes a vs).score = s.score := rfl
@[simp] theorem State.writeBytes_format (s : State) (a : Nat) (vs : List Byte) : (s.writeBytes a vs).format = s.format := rfl
@[simp] theorem State.writeBytes_streamLen (s : State) (a : Nat) (vs : List Byte) : (s.writeBytes a vs).streamLen = s.streamLen := rfl
@[simp] theorem State.writeBytes_mem (s : State) (a : Nat) (vs : List Byte) : (s.writeBytes a vs).mem = Memory.write s.mem a vs := rfl
@[simp] theorem State.writeBytes_inflight (s : State) (a : Nat) (vs : List Byte) : (s.writeBytes a vs).inflight = s.inflight := rfl
@[simp] theorem State.writeBytes_epochs (s : State) (a : Nat) (vs : List Byte) : (s.writeBytes a vs).epochs = s.epochs := rfl
@[simp] theorem State.writeBytes_draws (s : State) (a : Nat) (vs : List Byte) : (s.writeBytes a vs).draws = s.draws := rfl
@[simp] theorem State.writeBytes_latency (s : State) (a : Nat) (vs : List Byte) : (s.writeBytes a vs).latency = s.latency := rfl
@[simp] theorem State.writeBytes_bus (s : State) (a : Nat) (vs : List Byte) : (s.writeBytes a vs).bus = s.bus := rfl
@[simp] theorem State.writeBytes_answer (s : State) (a : Nat) (vs : List Byte) : (s.writeBytes a vs).answer = s.answer := rfl

/-! ### writeWord -/

@[simp] theorem State.writeWord_rsClean (s : State) (a : Nat) (w : Word) : (s.writeWord a w).rsClean = s.rsClean := rfl
@[simp] theorem State.writeWord_done (s : State) (a : Nat) (w : Word) : (s.writeWord a w).done = s.done := rfl
@[simp] theorem State.writeWord_err (s : State) (a : Nat) (w : Word) : (s.writeWord a w).err = s.err := rfl
@[simp] theorem State.writeWord_outValid (s : State) (a : Nat) (w : Word) : (s.writeWord a w).outValid = s.outValid := rfl
@[simp] theorem State.writeWord_errcode (s : State) (a : Nat) (w : Word) : (s.writeWord a w).errcode = s.errcode := rfl
@[simp] theorem State.writeWord_lastOp (s : State) (a : Nat) (w : Word) : (s.writeWord a w).lastOp = s.lastOp := rfl
@[simp] theorem State.writeWord_cmd (s : State) (a : Nat) (w : Word) : (s.writeWord a w).cmd = s.cmd := rfl
@[simp] theorem State.writeWord_result (s : State) (a : Nat) (w : Word) : (s.writeWord a w).result = s.result := rfl
@[simp] theorem State.writeWord_textLen (s : State) (a : Nat) (w : Word) : (s.writeWord a w).textLen = s.textLen := rfl
@[simp] theorem State.writeWord_sel (s : State) (a : Nat) (w : Word) : (s.writeWord a w).sel = s.sel := rfl
@[simp] theorem State.writeWord_winnerMask (s : State) (a : Nat) (w : Word) : (s.writeWord a w).winnerMask = s.winnerMask := rfl
@[simp] theorem State.writeWord_winnerValid (s : State) (a : Nat) (w : Word) : (s.writeWord a w).winnerValid = s.winnerValid := rfl
@[simp] theorem State.writeWord_score (s : State) (a : Nat) (w : Word) : (s.writeWord a w).score = s.score := rfl
@[simp] theorem State.writeWord_format (s : State) (a : Nat) (w : Word) : (s.writeWord a w).format = s.format := rfl
@[simp] theorem State.writeWord_streamLen (s : State) (a : Nat) (w : Word) : (s.writeWord a w).streamLen = s.streamLen := rfl
@[simp] theorem State.writeWord_mem (s : State) (a : Nat) (w : Word) : (s.writeWord a w).mem = Memory.write s.mem a (bytesOfWord w) := rfl
@[simp] theorem State.writeWord_inflight (s : State) (a : Nat) (w : Word) : (s.writeWord a w).inflight = s.inflight := rfl
@[simp] theorem State.writeWord_epochs (s : State) (a : Nat) (w : Word) : (s.writeWord a w).epochs = s.epochs := rfl
@[simp] theorem State.writeWord_draws (s : State) (a : Nat) (w : Word) : (s.writeWord a w).draws = s.draws := rfl
@[simp] theorem State.writeWord_latency (s : State) (a : Nat) (w : Word) : (s.writeWord a w).latency = s.latency := rfl
@[simp] theorem State.writeWord_bus (s : State) (a : Nat) (w : Word) : (s.writeWord a w).bus = s.bus := rfl
@[simp] theorem State.writeWord_answer (s : State) (a : Nat) (w : Word) : (s.writeWord a w).answer = s.answer := rfl

/-! ### writeMatrix -/

@[simp] theorem State.writeMatrix_rsClean (s : State) (b : Buffer) (m : Matrix) : (s.writeMatrix b m).rsClean = s.rsClean := rfl
@[simp] theorem State.writeMatrix_done (s : State) (b : Buffer) (m : Matrix) : (s.writeMatrix b m).done = s.done := rfl
@[simp] theorem State.writeMatrix_err (s : State) (b : Buffer) (m : Matrix) : (s.writeMatrix b m).err = s.err := rfl
@[simp] theorem State.writeMatrix_outValid (s : State) (b : Buffer) (m : Matrix) : (s.writeMatrix b m).outValid = s.outValid := rfl
@[simp] theorem State.writeMatrix_errcode (s : State) (b : Buffer) (m : Matrix) : (s.writeMatrix b m).errcode = s.errcode := rfl
@[simp] theorem State.writeMatrix_lastOp (s : State) (b : Buffer) (m : Matrix) : (s.writeMatrix b m).lastOp = s.lastOp := rfl
@[simp] theorem State.writeMatrix_cmd (s : State) (b : Buffer) (m : Matrix) : (s.writeMatrix b m).cmd = s.cmd := rfl
@[simp] theorem State.writeMatrix_result (s : State) (b : Buffer) (m : Matrix) : (s.writeMatrix b m).result = s.result := rfl
@[simp] theorem State.writeMatrix_textLen (s : State) (b : Buffer) (m : Matrix) : (s.writeMatrix b m).textLen = s.textLen := rfl
@[simp] theorem State.writeMatrix_sel (s : State) (b : Buffer) (m : Matrix) : (s.writeMatrix b m).sel = s.sel := rfl
@[simp] theorem State.writeMatrix_winnerMask (s : State) (b : Buffer) (m : Matrix) : (s.writeMatrix b m).winnerMask = s.winnerMask := rfl
@[simp] theorem State.writeMatrix_winnerValid (s : State) (b : Buffer) (m : Matrix) : (s.writeMatrix b m).winnerValid = s.winnerValid := rfl
@[simp] theorem State.writeMatrix_score (s : State) (b : Buffer) (m : Matrix) : (s.writeMatrix b m).score = s.score := rfl
@[simp] theorem State.writeMatrix_format (s : State) (b : Buffer) (m : Matrix) : (s.writeMatrix b m).format = s.format := rfl
@[simp] theorem State.writeMatrix_streamLen (s : State) (b : Buffer) (m : Matrix) : (s.writeMatrix b m).streamLen = s.streamLen := rfl
@[simp] theorem State.writeMatrix_inflight (s : State) (b : Buffer) (m : Matrix) : (s.writeMatrix b m).inflight = s.inflight := rfl
@[simp] theorem State.writeMatrix_epochs (s : State) (b : Buffer) (m : Matrix) : (s.writeMatrix b m).epochs = s.epochs := rfl
@[simp] theorem State.writeMatrix_draws (s : State) (b : Buffer) (m : Matrix) : (s.writeMatrix b m).draws = s.draws := rfl
@[simp] theorem State.writeMatrix_latency (s : State) (b : Buffer) (m : Matrix) : (s.writeMatrix b m).latency = s.latency := rfl
@[simp] theorem State.writeMatrix_bus (s : State) (b : Buffer) (m : Matrix) : (s.writeMatrix b m).bus = s.bus := rfl
@[simp] theorem State.writeMatrix_answer (s : State) (b : Buffer) (m : Matrix) : (s.writeMatrix b m).answer = s.answer := rfl

/-! ### unspecify -/

@[simp] theorem State.unspecify_rsClean (s : State) (b : Buffer) : (s.unspecify b).rsClean = s.rsClean := rfl
@[simp] theorem State.unspecify_done (s : State) (b : Buffer) : (s.unspecify b).done = s.done := rfl
@[simp] theorem State.unspecify_err (s : State) (b : Buffer) : (s.unspecify b).err = s.err := rfl
@[simp] theorem State.unspecify_outValid (s : State) (b : Buffer) : (s.unspecify b).outValid = s.outValid := rfl
@[simp] theorem State.unspecify_errcode (s : State) (b : Buffer) : (s.unspecify b).errcode = s.errcode := rfl
@[simp] theorem State.unspecify_lastOp (s : State) (b : Buffer) : (s.unspecify b).lastOp = s.lastOp := rfl
@[simp] theorem State.unspecify_cmd (s : State) (b : Buffer) : (s.unspecify b).cmd = s.cmd := rfl
@[simp] theorem State.unspecify_result (s : State) (b : Buffer) : (s.unspecify b).result = s.result := rfl
@[simp] theorem State.unspecify_textLen (s : State) (b : Buffer) : (s.unspecify b).textLen = s.textLen := rfl
@[simp] theorem State.unspecify_sel (s : State) (b : Buffer) : (s.unspecify b).sel = s.sel := rfl
@[simp] theorem State.unspecify_winnerMask (s : State) (b : Buffer) : (s.unspecify b).winnerMask = s.winnerMask := rfl
@[simp] theorem State.unspecify_winnerValid (s : State) (b : Buffer) : (s.unspecify b).winnerValid = s.winnerValid := rfl
@[simp] theorem State.unspecify_score (s : State) (b : Buffer) : (s.unspecify b).score = s.score := rfl
@[simp] theorem State.unspecify_format (s : State) (b : Buffer) : (s.unspecify b).format = s.format := rfl
@[simp] theorem State.unspecify_streamLen (s : State) (b : Buffer) : (s.unspecify b).streamLen = s.streamLen := rfl
@[simp] theorem State.unspecify_mem (s : State) (b : Buffer) : (s.unspecify b).mem = Memory.forget s.mem b.start b.size := rfl
@[simp] theorem State.unspecify_inflight (s : State) (b : Buffer) : (s.unspecify b).inflight = s.inflight := rfl
@[simp] theorem State.unspecify_epochs (s : State) (b : Buffer) : (s.unspecify b).epochs = s.epochs.bump b := rfl
@[simp] theorem State.unspecify_draws (s : State) (b : Buffer) : (s.unspecify b).draws = s.draws := rfl
@[simp] theorem State.unspecify_latency (s : State) (b : Buffer) : (s.unspecify b).latency = s.latency := rfl
@[simp] theorem State.unspecify_bus (s : State) (b : Buffer) : (s.unspecify b).bus = s.bus := rfl
@[simp] theorem State.unspecify_answer (s : State) (b : Buffer) : (s.unspecify b).answer = s.answer := rfl

/-! ### Writing the eight candidates: only memory changes -/

/-- Eight matrix writes in a row change memory alone. -/
theorem State.foldl_writeMatrix (f : Fin 8 → Matrix) (ms : List (Fin 8)) (s : State) :
    ms.foldl (fun t m => t.writeMatrix (.cand m) (f m)) s =
      { s with mem := (ms.foldl (fun t m => t.writeMatrix (.cand m) (f m)) s).mem } := by
  induction ms generalizing s with
  | nil => rfl
  | cons m ms ih => rw [List.foldl_cons, ih]; rfl

/-- Writing the candidates changes memory alone. -/
theorem State.writeCandidates_eq (s : State) (b : Matrix) (v : Version) :
    s.writeCandidates b v = { s with mem := (s.writeCandidates b v).mem } :=
  State.foldl_writeMatrix (candidate b v) (List.finRange 8) s

end Sys2Proof.Machine
end

