-- ==== Sys2Proof/Laws/Memory.lean ====
section
/-! SUPPORT. The laws of the window memory: what is read after a write, what a write leaves alone, and that
every memory operation keeps the canonical form. They hold for every memory, sorted or not, but for the
form itself. -/

namespace Sys2Proof.Machine

/-! ### Lookups -/

@[simp] theorem Memory.lookup_nil (x : Nat) : Memory.lookup [] x = none := rfl

theorem Memory.lookup_append (m n : Memory) (x : Nat) :
    Memory.lookup (m ++ n) x = (Memory.lookup m x).or (Memory.lookup n x) := by
  unfold Memory.lookup
  rw [List.find?_append]
  cases List.find? (fun c => c.1 == x) m <;> simp

theorem Memory.lookup_cons (c : Host.Cell) (m : Memory) (x : Nat) :
    Memory.lookup (c :: m) x = if c.1 = x then some c.2 else Memory.lookup m x := by
  unfold Memory.lookup
  rw [List.find?_cons]
  by_cases hc : c.1 = x
  · simp [hc]
  · have : (c.1 == x) = false := by simp [hc]
    simp [this, hc]

/-- Filtering by a test on the offset keeps the cell at x or hides it. -/
theorem Memory.lookup_filter (m : Memory) (p : Nat → Bool) (x : Nat) :
    Memory.lookup (m.filter (fun c => p c.1)) x = if p x then Memory.lookup m x else none := by
  induction m with
  | nil => simp
  | cons c m ih =>
    rw [Memory.lookup_cons]
    cases hp : p c.1 with
    | false =>
      rw [List.filter_cons_of_neg (by simp [hp]), ih]
      by_cases hc : c.1 = x
      · subst hc; simp [hp]
      · rw [if_neg hc]
    | true =>
      rw [List.filter_cons_of_pos (by simp [hp]), Memory.lookup_cons, ih]
      by_cases hc : c.1 = x
      · subst hc; simp [hp]
      · rw [if_neg hc, if_neg hc]

theorem Memory.lookup_cellsAt (vs : List Byte) (a x : Nat) :
    Memory.lookup (cellsAt a vs) x = if a ≤ x ∧ x < a + vs.length then vs[x - a]? else none := by
  induction vs generalizing a with
  | nil =>
    have : ¬ (a ≤ x ∧ x < a) := by omega
    simp [cellsAt, Memory.lookup, this]
  | cons v vs ih =>
    rw [cellsAt, show (a, v) :: cellsAt (a + 1) vs = [(a, v)] ++ cellsAt (a + 1) vs from rfl,
      Memory.lookup_append, ih]
    by_cases hx : a = x
    · subst hx
      simp [Memory.lookup]
    · have h1 : Memory.lookup [(a, v)] x = none := by simp [Memory.lookup, hx]
      rw [h1, Option.none_or]
      by_cases h : a + 1 ≤ x ∧ x < a + 1 + vs.length
      · have h' : a ≤ x ∧ x < a + (v :: vs).length := by
          simp only [List.length_cons]; omega
        rw [if_pos h, if_pos h', show x - a = (x - (a + 1)) + 1 by omega, List.getElem?_cons_succ]
      · have h' : ¬ (a ≤ x ∧ x < a + (v :: vs).length) := by
          simp only [List.length_cons]; omega
        rw [if_neg h, if_neg h']

/-- After a write the bytes written are read, and every other cell is as before. -/
theorem Memory.lookup_write (m : Memory) (a : Nat) (vs : List Byte) (x : Nat) :
    Memory.lookup (Memory.write m a vs) x =
      if a ≤ x ∧ x < a + vs.length then vs[x - a]? else Memory.lookup m x := by
  unfold Memory.write
  rw [Memory.lookup_append, Memory.lookup_append,
    Memory.lookup_filter m (fun n => decide (n < a)),
    Memory.lookup_filter m (fun n => decide (a + vs.length ≤ n)), Memory.lookup_cellsAt]
  by_cases h : a ≤ x ∧ x < a + vs.length
  · have h1 : ¬ x < a := by omega
    have h2 : ¬ a + vs.length ≤ x := by omega
    simp only [h1, h2, h, decide_false, Bool.false_eq_true, if_false, and_self, if_true, Option.none_or,
      Option.or_none]
  · by_cases hlt : x < a
    · have h2 : ¬ a ≤ x := by omega
      cases hl : Memory.lookup m x <;> simp [hlt, h2]
    · have h3 : a + vs.length ≤ x := by omega
      have h4 : ¬ x < a + vs.length := by omega
      simp [hlt, h3, h4]

/-- After a run of cells is forgotten none of them is listed, and every other cell is as before. -/
theorem Memory.lookup_forget (m : Memory) (a len x : Nat) :
    Memory.lookup (Memory.forget m a len) x =
      if a ≤ x ∧ x < a + len then none else Memory.lookup m x := by
  unfold Memory.forget
  rw [Memory.lookup_append, Memory.lookup_filter m (fun n => decide (n < a)),
    Memory.lookup_filter m (fun n => decide (a + len ≤ n))]
  by_cases h : a ≤ x ∧ x < a + len
  · have h1 : ¬ x < a := by omega
    have h2 : ¬ a + len ≤ x := by omega
    simp [h, h1]
  · by_cases hlt : x < a
    · have h2 : ¬ a ≤ x := by omega
      cases hl : Memory.lookup m x <;> simp [hlt, h2]
    · have h3 : a + len ≤ x := by omega
      have h4 : ¬ x < a + len := by omega
      simp [hlt, h3, h4]

/-! ### Bytes of the state -/

/-- Reading a byte after a run of bytes was written. -/
theorem State.readByte_writeBytes (s : State) (a : Nat) (vs : List Byte) (x : Nat) :
    (s.writeBytes a vs).readByte x =
      if a ≤ x ∧ x < a + vs.length then vs.getD (x - a) 0 else s.readByte x := by
  unfold State.readByte
  rw [State.writeBytes_mem, State.writeBytes_epochs, Memory.lookup_write]
  by_cases h : a ≤ x ∧ x < a + vs.length
  · have hlt : x - a < vs.length := by omega
    rw [if_pos h, if_pos h]
    simp [List.getElem?_eq_getElem hlt]
  · rw [if_neg h, if_neg h]

/-- A byte read depends on memory and the draws alone. -/
theorem State.readByte_congr (s t : State) (hm : t.mem = s.mem) (he : t.epochs = s.epochs) (x : Nat) :
    t.readByte x = s.readByte x := by
  unfold State.readByte
  rw [hm, he]

/-- Bytes outside a buffer made unspecified are as before. -/
theorem State.lookup_unspecify (s : State) (b : Buffer) (x : Nat) :
    Memory.lookup (s.unspecify b).mem x =
      if b.start ≤ x ∧ x < b.start + b.size then none else Memory.lookup s.mem x :=
  Memory.lookup_forget s.mem b.start b.size x

/-! ### The canonical form -/

/-- The form says: strictly rising offsets, every cell one the window can hold. -/
theorem Memory.wf_iff (m : Memory) :
    Memory.wf m = true ↔ m.Pairwise (fun c d => c.1 < d.1) ∧ ∀ c ∈ m, cellOk c = true := by
  induction m with
  | nil => simp [Memory.wf]
  | cons c m ih =>
    cases m with
    | nil => simp [Memory.wf]
    | cons d rest =>
      rw [Memory.wf, Bool.and_eq_true, Bool.and_eq_true, ih, decide_eq_true_eq]
      constructor
      · rintro ⟨⟨hc, hlt⟩, hp, hall⟩
        refine ⟨List.pairwise_cons.2 ⟨?_, hp⟩, ?_⟩
        · intro e he
          rcases List.mem_cons.1 he with rfl | he
          · exact hlt
          · exact Nat.lt_trans hlt ((List.pairwise_cons.1 hp).1 e he)
        · intro e he
          rcases List.mem_cons.1 he with rfl | he
          · exact hc
          · exact hall e he
      · rintro ⟨hp, hall⟩
        obtain ⟨h1, h2⟩ := List.pairwise_cons.1 hp
        exact ⟨⟨hall c (by simp), h1 d (by simp)⟩, h2, fun e he => hall e (by simp [he])⟩

theorem mem_cellsAt {vs : List Byte} {a : Nat} {c : Host.Cell} (h : c ∈ cellsAt a vs) :
    a ≤ c.1 ∧ c.1 < a + vs.length ∧ vs[c.1 - a]? = some c.2 := by
  induction vs generalizing a with
  | nil => simp [cellsAt] at h
  | cons v vs ih =>
    rw [cellsAt, List.mem_cons] at h
    rcases h with rfl | h
    · simp
    · obtain ⟨h1, h2, h3⟩ := ih h
      refine ⟨by omega, by simp only [List.length_cons]; omega, ?_⟩
      rw [show c.1 - a = (c.1 - (a + 1)) + 1 by omega, List.getElem?_cons_succ, h3]

theorem cellsAt_pairwise (vs : List Byte) (a : Nat) :
    (cellsAt a vs).Pairwise (fun c d => c.1 < d.1) := by
  induction vs generalizing a with
  | nil => simp [cellsAt]
  | cons v vs ih =>
    rw [cellsAt, List.pairwise_cons]
    refine ⟨fun d hd => ?_, ih (a + 1)⟩
    have := (mem_cellsAt hd).1
    simp only
    omega

/-- The reset memory has the form. -/
theorem Memory.wf_nil : Memory.wf [] = true := rfl

/-- A write of bytes the window can hold keeps the form. -/
theorem Memory.wf_write (m : Memory) (a : Nat) (vs : List Byte) (hm : Memory.wf m = true)
    (hv : ∀ c ∈ cellsAt a vs, cellOk c = true) : Memory.wf (Memory.write m a vs) = true := by
  rw [Memory.wf_iff] at hm ⊢
  obtain ⟨hp, hall⟩ := hm
  unfold Memory.write
  refine ⟨?_, ?_⟩
  · rw [List.pairwise_append, List.pairwise_append]
    refine ⟨⟨hp.filter _, cellsAt_pairwise vs a, ?_⟩, hp.filter _, ?_⟩
    · intro c hc d hd
      have h1 : c.1 < a := by simpa using (List.mem_filter.1 hc).2
      have h2 := (mem_cellsAt hd).1
      omega
    · intro c hc d hd
      have h2 : a + vs.length ≤ d.1 := by simpa using (List.mem_filter.1 hd).2
      rcases List.mem_append.1 hc with hc | hc
      · have h1 : c.1 < a := by simpa using (List.mem_filter.1 hc).2
        omega
      · have h1 := (mem_cellsAt hc).2.1
        omega
  · intro c hc
    rcases List.mem_append.1 hc with hc | hc
    · rcases List.mem_append.1 hc with hc | hc
      · exact hall c (List.mem_filter.1 hc).1
      · exact hv c hc
    · exact hall c (List.mem_filter.1 hc).1

/-- Forgetting a run of cells keeps the form. -/
theorem Memory.wf_forget (m : Memory) (a len : Nat) (hm : Memory.wf m = true) :
    Memory.wf (Memory.forget m a len) = true := by
  rw [Memory.wf_iff] at hm ⊢
  obtain ⟨hp, hall⟩ := hm
  unfold Memory.forget
  refine ⟨?_, ?_⟩
  · rw [List.pairwise_append]
    refine ⟨hp.filter _, hp.filter _, ?_⟩
    intro c hc d hd
    have h1 : c.1 < a := by simpa using (List.mem_filter.1 hc).2
    have h2 : a + len ≤ d.1 := by simpa using (List.mem_filter.1 hd).2
    omega
  · intro c hc
    rcases List.mem_append.1 hc with hc | hc <;> exact hall c (List.mem_filter.1 hc).1

end Sys2Proof.Machine
end

