-- ==== Sys2Proof/Laws/Matrix.lean ====
section
/-! SUPPORT. The laws of words and matrices: what a word is made of, which module a matrix operation sets, and
that a matrix buffer reads back the matrix written to it. -/

namespace Sys2Proof.Machine

/-! ### Words and bytes -/

@[simp] theorem bytesOfWord_length (w : Word) : (bytesOfWord w).length = 4 := rfl

/-- Bit i of the word of four bytes is bit i mod 8 of byte ⌊i/8⌋ (rule R80). -/
theorem getLsbD_wordOfBytes (b0 b1 b2 b3 : Byte) (i : Nat) (hi : i < 32) :
    (wordOfBytes b0 b1 b2 b3).getLsbD i = (([b0, b1, b2, b3] : List Byte).getD (i / 8) 0).getLsbD (i % 8) := by
  unfold wordOfBytes
  simp only [BitVec.getLsbD_or, BitVec.getLsbD_shiftLeft, BitVec.getLsbD_setWidth]
  rcases (by omega : i < 8 ∨ (8 ≤ i ∧ i < 16) ∨ (16 ≤ i ∧ i < 24) ∨ 24 ≤ i) with h | h | h | h
  · have h1 : i / 8 = 0 := by omega
    have h2 : i % 8 = i := by omega
    simp [h1, h2, hi, h, show i < 16 by omega, show i < 24 by omega]
  · have h1 : i / 8 = 1 := by omega
    have h2 : i % 8 = i - 8 := by omega
    have h3 : b0.getLsbD i = false := BitVec.getLsbD_of_ge b0 i (by omega)
    simp [h1, h2, h3, hi, h.2, show ¬ i < 8 by omega, show i < 24 by omega, show i - 8 < 32 by omega]
  · have h1 : i / 8 = 2 := by omega
    have h2 : i % 8 = i - 16 := by omega
    have h3 : b0.getLsbD i = false := BitVec.getLsbD_of_ge b0 i (by omega)
    have h4 : b1.getLsbD (i - 8) = false := BitVec.getLsbD_of_ge b1 (i - 8) (by omega)
    simp [h1, h2, h3, h4, hi, h.2, show ¬ i < 16 by omega, show i - 16 < 32 by omega]
  · have h1 : i / 8 = 3 := by omega
    have h2 : i % 8 = i - 24 := by omega
    have h3 : b0.getLsbD i = false := BitVec.getLsbD_of_ge b0 i (by omega)
    have h4 : b1.getLsbD (i - 8) = false := BitVec.getLsbD_of_ge b1 (i - 8) (by omega)
    have h5 : b2.getLsbD (i - 16) = false := BitVec.getLsbD_of_ge b2 (i - 16) (by omega)
    simp [h1, h2, h3, h4, h5, hi, show ¬ i < 24 by omega, show i - 24 < 32 by omega]

/-- A word is made of its bytes. -/
theorem wordOfBytes_extract (w : Word) :
    wordOfBytes (w.extractLsb' 0 8) (w.extractLsb' 8 8) (w.extractLsb' 16 8) (w.extractLsb' 24 8) = w := by
  apply BitVec.eq_of_getLsbD_eq
  intro i hi
  rw [getLsbD_wordOfBytes _ _ _ _ _ hi]
  rcases (by omega : i / 8 = 0 ∨ i / 8 = 1 ∨ i / 8 = 2 ∨ i / 8 = 3) with h | h | h | h <;>
    · simp only [h, List.getD_cons_zero, List.getD_cons_succ, BitVec.getLsbD_extractLsb']
      rw [decide_eq_true (show i % 8 < 8 by omega), Bool.true_and]
      congr 1
      omega

/-- A word written is read back (rules R37, R80). -/
theorem State.readWord_writeWord (s : State) (a : Nat) (w : Word) : (s.writeWord a w).readWord a = w := by
  unfold State.readWord State.writeWord
  simp only [State.readByte_writeBytes, bytesOfWord_length]
  simp only [show a ≤ a ∧ a < a + 4 by omega, show a ≤ a + 1 ∧ a + 1 < a + 4 by omega,
    show a ≤ a + 2 ∧ a + 2 < a + 4 by omega, show a ≤ a + 3 ∧ a + 3 < a + 4 by omega, and_self, if_true,
    Nat.sub_self, Nat.add_sub_cancel_left]
  exact wordOfBytes_extract w

/-- A word read elsewhere is as before. -/
theorem State.readByte_writeWord (s : State) (a : Nat) (w : Word) (x : Nat) (h : x < a ∨ a + 4 ≤ x) :
    (s.writeWord a w).readByte x = s.readByte x := by
  unfold State.writeWord
  rw [State.readByte_writeBytes, bytesOfWord_length, if_neg (by omega)]

/-! ### Modules -/

/-- The modules of a matrix given cell by cell; outside N×N they are 0 (rule R226). -/
theorem Matrix.get_ofCells (n : Nat) (f : Nat → Nat → Bool) (r c : Nat) :
    Matrix.get (Matrix.ofCells n f) r c =
      (decide (r < 29) && decide (c < 29) && decide (r < n) && decide (c < n) && f r c) := by
  unfold Matrix.get Matrix.row Matrix.ofCells Config.rowCount
  by_cases hr : r < 29
  · rw [List.getD_eq_getElem?_getD, List.getElem?_map, List.getElem?_range hr]
    simp only [Option.map_some, Option.getD_some, BitVec.getLsbD_ofFnLE]
    by_cases hc : c < 29
    · simp [hr, hc]
    · simp [hc]
  · rw [List.getD_eq_getElem?_getD, List.getElem?_map,
      List.getElem?_eq_none (by simp only [List.length_range]; omega)]
    simp [hr]

@[simp] theorem Matrix.length_ofCells (n : Nat) (f : Nat → Nat → Bool) : (Matrix.ofCells n f).length = 29 := by
  simp [Matrix.ofCells, Config.rowCount]

@[simp] theorem Matrix.length_set (m : Matrix) (r c : Nat) (d : Bool) :
    (Matrix.set m r c d).length = m.length := by
  simp [Matrix.set]

/-- Setting one module sets that one and no other. -/
theorem Matrix.get_set (m : Matrix) (r c : Nat) (d : Bool) (r' c' : Nat) :
    Matrix.get (Matrix.set m r c d) r' c' =
      if r' = r ∧ c' = c ∧ r < m.length ∧ c < 29 then d else Matrix.get m r' c' := by
  unfold Matrix.get Matrix.row Matrix.set
  rw [List.getD_eq_getElem?_getD, List.getD_eq_getElem?_getD, List.getElem?_modify]
  by_cases hr : r = r'
  · subst hr
    by_cases hl : r < m.length
    · rw [List.getElem?_eq_getElem hl]
      by_cases h29 : c' < 29
      · by_cases hc : c' = c
        · subst hc
          cases d <;> simp [hl, h29]
        · cases d <;> simp [hc, h29] <;> intros <;> omega
      · have h1 : m[r].getLsbD c' = false := BitVec.getLsbD_of_ge _ _ (by omega)
        have h2 : ¬ (c' = c ∧ c < 29) := by omega
        rw [if_neg (by omega)]
        simp only [if_true, Option.getD_some, h1]
        exact BitVec.getLsbD_of_ge _ _ (by omega)
    · rw [List.getElem?_eq_none (by omega)]
      simp [hl]
  · rw [if_neg (by omega)]
    simp [hr]

/-! ### Matrix buffers -/

theorem length_flatMap_rows (f : Nat → Row) (n : Nat) :
    ((List.range n).flatMap (fun r => bytesOfRow (f r))).length = 4 * n := by
  induction n with
  | zero => rfl
  | succ n ih => rw [List.range_succ, List.flatMap_append, List.length_append, ih]; simp [bytesOfRow]; omega

theorem getD_flatMap_rows (f : Nat → Row) (n r k : Nat) (hr : r < n) (hk : k < 4) :
    ((List.range n).flatMap (fun r => bytesOfRow (f r))).getD (4 * r + k) 0 = (bytesOfRow (f r)).getD k 0 := by
  induction n with
  | zero => omega
  | succ n ih =>
    rw [List.range_succ, List.flatMap_append]
    by_cases h : r < n
    · rw [List.getD_append _ _ _ _ (by rw [length_flatMap_rows]; omega), ih h]
    · have : r = n := by omega
      subst this
      rw [List.getD_append_right _ _ _ _ (by rw [length_flatMap_rows]; omega), length_flatMap_rows]
      simp

/-- A byte after a matrix buffer was written: the row's byte inside it, as before outside. -/
theorem State.readByte_writeMatrix (s : State) (b : Buffer) (m : Matrix) (x : Nat) :
    (s.writeMatrix b m).readByte x =
      if b.start ≤ x ∧ x < b.start + 116 then
        (bytesOfRow (Matrix.row m ((x - b.start) / 4))).getD ((x - b.start) % 4) 0
      else s.readByte x := by
  unfold State.writeMatrix
  rw [State.readByte_writeBytes, length_flatMap_rows]
  by_cases h : b.start ≤ x ∧ x < b.start + 116
  · have h' : b.start ≤ x ∧ x < b.start + 4 * Config.rowCount := by
      simp only [Config.rowCount]; omega
    rw [if_pos h, if_pos h',
      show x - b.start = 4 * ((x - b.start) / 4) + (x - b.start) % 4 by omega,
      getD_flatMap_rows _ _ _ _ (by simp only [Config.rowCount]; omega) (by omega)]
    congr 2
    · congr 1; omega
    · omega
  · have h' : ¬ (b.start ≤ x ∧ x < b.start + 4 * Config.rowCount) := by
      simp only [Config.rowCount]; omega
    rw [if_neg h, if_neg h']

/-- The row word of a matrix buffer after it was written. -/
theorem State.readWord_writeMatrix (s : State) (b : Buffer) (m : Matrix) (r : Nat) (hr : r < 29) :
    (s.writeMatrix b m).readWord (b.start + 4 * r) = (Matrix.row m r).setWidth 32 := by
  unfold State.readWord
  simp only [State.readByte_writeMatrix]
  have key : ∀ k, k < 4 →
      (if b.start ≤ b.start + 4 * r + k ∧ b.start + 4 * r + k < b.start + 116 then
        (bytesOfRow (Matrix.row m ((b.start + 4 * r + k - b.start) / 4))).getD
          ((b.start + 4 * r + k - b.start) % 4) 0
      else s.readByte (b.start + 4 * r + k)) = (bytesOfRow (Matrix.row m r)).getD k 0 := by
    intro k hk
    rw [if_pos (by omega), show (b.start + 4 * r + k - b.start) / 4 = r by omega,
      show (b.start + 4 * r + k - b.start) % 4 = k by omega]
  have k0 := key 0 (by omega)
  rw [Nat.add_zero] at k0
  rw [k0, key 1 (by omega), key 2 (by omega), key 3 (by omega)]
  exact wordOfBytes_extract ((Matrix.row m r).setWidth 32)

/-- A matrix buffer reads back the matrix written to it (rule R38). -/
theorem State.get_readMatrix_writeMatrix (s : State) (b : Buffer) (m : Matrix) (r c : Nat) :
    Matrix.get ((s.writeMatrix b m).readMatrix b) r c = (decide (r < 29) && Matrix.get m r c) := by
  unfold State.readMatrix Config.rowCount
  unfold Matrix.get
  by_cases hr : r < 29
  · have : Matrix.row ((List.range 29).map
        (fun r => ((s.writeMatrix b m).readWord (b.start + 4 * r)).setWidth 29)) r = Matrix.row m r := by
      rw [Matrix.row, List.getD_eq_getElem?_getD, List.getElem?_map, List.getElem?_range hr]
      simp only [Option.map_some, Option.getD_some, State.readWord_writeMatrix s b m r hr]
      apply BitVec.eq_of_getLsbD_eq
      intro i hi
      simp [hi]
    rw [this]
    simp [hr]
  · rw [Matrix.row, List.getD_eq_getElem?_getD, List.getElem?_map,
      List.getElem?_eq_none (by simp only [List.length_range]; omega)]
    simp [hr]

/-- A matrix read depends only on the bytes of its buffer. -/
theorem State.readMatrix_congr (s t : State) (b : Buffer)
    (h : ∀ x, b.start ≤ x → x < b.start + 116 → t.readByte x = s.readByte x) :
    t.readMatrix b = s.readMatrix b := by
  unfold State.readMatrix
  apply List.map_congr_left
  intro r hr
  have hr : r < 29 := by simpa [Config.rowCount] using hr
  unfold State.readWord
  rw [h _ (by omega) (by omega), h _ (by omega) (by omega), h _ (by omega) (by omega),
    h _ (by omega) (by omega)]

end Sys2Proof.Machine
end

