-- ==== Sys2Proof/Laws/Commands.lean ====
section
/-! SUPPORT. What each command and each shared operation of the command cycle can do, said once: exec is a stage
and then the completion step, and every stage is one of the listed cases. -/

namespace Sys2Proof.Machine

/-! ### The completion step -/

@[simp] theorem StageResult.finish_ok (s : State) : (StageResult.ok s).finish = .next s.complete := rfl

@[simp] theorem StageResult.finish_fault (c : FaultCode) (s : State) :
    (StageResult.fault c s).finish = .next (s.takeFault c) := rfl

@[simp] theorem StageResult.andThen_ok (s : State) (f : State → StageResult) :
    (StageResult.ok s).andThen f = f s := rfl

@[simp] theorem StageResult.andThen_fault (c : FaultCode) (s : State) (f : State → StageResult) :
    (StageResult.fault c s).andThen f = .fault c s := rfl

/-- Everything the completion step can answer. -/
theorem StageResult.finish_cases {r : StageResult} {t : State} (h : r.finish = .next t) :
    (∃ u, r = .ok u ∧ t = u.complete) ∨ (∃ c u, r = .fault c u ∧ t = u.takeFault c) := by
  cases r with
  | ok u => exact .inl ⟨u, rfl, by simpa using h.symm⟩
  | fault c u => exact .inr ⟨c, u, rfl, by simpa using h.symm⟩

/-- Everything two stages in a row can end in. -/
theorem StageResult.andThen_cases {r q : StageResult} {f : State → StageResult} (h : r.andThen f = q) :
    (∃ u, r = .ok u ∧ f u = q) ∨ (∃ c u, r = .fault c u ∧ q = .fault c u) := by
  cases r with
  | ok u => exact .inl ⟨u, rfl, h⟩
  | fault c u => exact .inr ⟨c, u, rfl, h.symm⟩

/-! ### exec as stages -/

/-- The stage of each command, before its completion. -/
def stageOf (i : Instr) (s : State) : StageResult :=
  match i with
  | .nop => .ok s
  | .gfmul a b => .ok (s.setResultByte (gfmul a b))
  | .gflog a => gflogStage a s
  | .gfexp e => .ok (s.setResultByte (expOf (e.toNat % 255)))
  | .rsenc k e => rsencStage k e s
  | .select lc => selectStage lc s
  | .bitstr => bitstrStage s
  | .eccil => eccilStage s
  | .build => buildStage s
  | .masksc => maskscStage s
  | .fmt => fmtStage s
  | .encode lc => encodeStage lc s

/-- Every command is its stage and then the completion step. -/
theorem exec_eq_finish (i : Instr) (s : State) : exec i s = (stageOf i s).finish := by
  cases i <;> rfl

/-! ### What each stage can do -/

/-- GFLOG (rule R132). -/
theorem gflogStage_cases (a : Byte) (s : State) :
    (a = 0 ∧ gflogStage a s = .fault .illegalOperand s) ∨
    (a ≠ 0 ∧ gflogStage a s = .ok { s with result := BitVec.ofNat 16 (logOf a) }) := by
  by_cases h : a = 0
  · exact .inl ⟨h, if_pos h⟩
  · exact .inr ⟨h, if_neg h⟩

/-- RSENC (rule R150). -/
theorem rsencStage_cases (k e : Byte) (s : State) :
    ((messageLengthOk k.toNat = false ∨ errorCountOk e.toNat = false) ∧
      rsencStage k e s = .fault .illegalOperand s) ∨
    (messageLengthOk k.toNat = true ∧ errorCountOk e.toNat = true ∧
      rsencStage k e s =
        .ok (s.writeBytes Buffer.ecc.start (rsDiv (s.readBuffer .data k.toNat) e.toNat s.clean))) := by
  unfold rsencStage
  cases messageLengthOk k.toNat <;> cases errorCountOk e.toNat <;> simp

/-- SELECT (rules R170, R175). -/
theorem selectStage_cases (lc : Byte) (s : State) :
    (levelOfByte lc = none ∧ selectStage lc s = .fault .invalidLevel s) ∨
    (∃ l, levelOfByte lc = some l ∧ s.textTooLong = true ∧ selectStage lc s = .fault .capacityExceeded s) ∨
    (∃ l, levelOfByte lc = some l ∧ s.textTooLong = false ∧
      smallestVersion (modeOfText s.text) l s.textLen.toNat = none ∧
      selectStage lc s = .fault .capacityExceeded s) ∨
    (∃ l v, levelOfByte lc = some l ∧ s.textTooLong = false ∧
      smallestVersion (modeOfText s.text) l s.textLen.toNat = some v ∧
      selectStage lc s =
        .ok { s with
              sel := { version := some v, mode := modeOfText s.text, level := l }
              winnerValid := false }) := by
  unfold selectStage
  cases hl : levelOfByte lc with
  | none => exact .inl ⟨rfl, rfl⟩
  | some l =>
    cases ht : s.textTooLong with
    | true => exact .inr (.inl ⟨l, rfl, rfl, by simp⟩)
    | false =>
      cases hv : smallestVersion (modeOfText s.text) l s.textLen.toNat with
      | none => exact .inr (.inr (.inl ⟨l, rfl, rfl, hv, by simp [hv]⟩))
      | some v => exact .inr (.inr (.inr ⟨l, v, rfl, rfl, hv, by simp [hv]⟩))

/-- BITSTR (rules R180, R303). -/
theorem bitstrStage_cases (s : State) :
    (s.sel.version = none ∧ bitstrStage s = .fault .sequenceError s) ∨
    (∃ v, s.sel.version = some v ∧ s.textTooLong = true ∧ bitstrStage s = .fault .capacityExceeded s) ∨
    (∃ v, s.sel.version = some v ∧ s.textTooLong = false ∧
      charsOk s.sel.mode (foldText s.sel.mode s.text) = false ∧
      bitstrStage s = .fault .invalidCharacter s) ∨
    (∃ v, s.sel.version = some v ∧ s.textTooLong = false ∧
      charsOk s.sel.mode (foldText s.sel.mode s.text) = true ∧
      dataStream (foldText s.sel.mode s.text) s.sel.mode v s.sel.level = none ∧
      bitstrStage s = .fault .capacityExceeded s) ∨
    (∃ v bs pre, s.sel.version = some v ∧ s.textTooLong = false ∧
      charsOk s.sel.mode (foldText s.sel.mode s.text) = true ∧
      dataStream (foldText s.sel.mode s.text) s.sel.mode v s.sel.level = some (bs, pre) ∧
      bitstrStage s =
        .ok { s.writeBytes Buffer.data.start (packBits bs (dataCodewords v s.sel.level)) with
              result := BitVec.ofNat 16 pre
              winnerValid := false }) := by
  unfold bitstrStage
  cases hv : s.sel.version with
  | none => exact .inl ⟨rfl, rfl⟩
  | some v =>
    cases ht : s.textTooLong with
    | true => exact .inr (.inl ⟨v, rfl, rfl, by simp⟩)
    | false =>
      cases hc : charsOk s.sel.mode (foldText s.sel.mode s.text) with
      | false => exact .inr (.inr (.inl ⟨v, rfl, rfl, rfl, by simp [hc]⟩))
      | true =>
        cases hd : dataStream (foldText s.sel.mode s.text) s.sel.mode v s.sel.level with
        | none => exact .inr (.inr (.inr (.inl ⟨v, rfl, rfl, rfl, hd, by simp [hc, hd]⟩)))
        | some p => exact .inr (.inr (.inr (.inr ⟨v, p.1, p.2, rfl, rfl, rfl, hd, by simp [hc, hd]⟩)))

/-- ECCIL (rule R200). -/
theorem eccilStage_cases (s : State) :
    (s.sel.version = none ∧ eccilStage s = .fault .sequenceError s) ∨
    (∃ v, s.sel.version = some v ∧
      eccilStage s =
        .ok { (s.writeBytes Buffer.stream.start
                (packBits (finalStream v s.sel.level s.clean
                  (s.readBuffer .data (dataCodewords v s.sel.level))) Config.streamBytes)).writeBytes
                Buffer.ecc.start
                (errorBlocks v s.sel.level s.clean
                  (s.readBuffer .data (dataCodewords v s.sel.level))).flatten with
              streamLen := BitVec.ofNat 10
                (finalStream v s.sel.level s.clean
                  (s.readBuffer .data (dataCodewords v s.sel.level))).length
              winnerValid := false }) := by
  unfold eccilStage
  cases hv : s.sel.version with
  | none => exact .inl ⟨rfl, rfl⟩
  | some v => exact .inr ⟨v, rfl, rfl⟩

/-- BUILD (rule R225). -/
theorem buildStage_cases (s : State) :
    (s.sel.version = none ∧ buildStage s = .fault .sequenceError s) ∨
    (∃ v, s.sel.version = some v ∧ s.streamLen.toNat ≠ pathLength v ∧
      buildStage s = .fault .tableInconsistency s) ∨
    (∃ v, s.sel.version = some v ∧ s.streamLen.toNat = pathLength v ∧
      buildStage s =
        .ok (s.writeMatrix .base (buildMatrix v (s.readBuffer .stream Config.streamBytes))).clearWinner) := by
  unfold buildStage
  cases hv : s.sel.version with
  | none => exact .inl ⟨rfl, rfl⟩
  | some v =>
    by_cases hl : s.streamLen.toNat = pathLength v
    · exact .inr (.inr ⟨v, rfl, hl, by simp [hl]⟩)
    · exact .inr (.inl ⟨v, rfl, hl, by simp [hl]⟩)

/-- MASKSC (rule R240). -/
theorem maskscStage_cases (s : State) :
    (s.sel.version = none ∧ maskscStage s = .fault .sequenceError s) ∨
    (∃ v, s.sel.version = some v ∧
      maskscStage s =
        .ok { s.writeCandidates (s.readMatrix .base) v with
              score := Vector.ofFn (fun m => BitVec.ofNat 32 (candidateScore (s.readMatrix .base) v m))
              winnerMask := selectMask (candidateScore (s.readMatrix .base) v)
              winnerValid := true }) := by
  unfold maskscStage
  cases hv : s.sel.version with
  | none => exact .inl ⟨rfl, rfl⟩
  | some v => exact .inr ⟨v, rfl, rfl⟩

/-- FMT (rule R270). -/
theorem fmtStage_cases (s : State) :
    ((s.sel.version = none ∨ s.winnerValid = false) ∧ fmtStage s = .fault .sequenceError s) ∨
    (∃ v, s.sel.version = some v ∧ s.winnerValid = true ∧
      fmtStage s =
        .ok { s.writeMatrix .out
                (finishedMatrix (s.readMatrix (.cand s.winnerMask)) v
                  (formatString s.sel.level s.winnerMask)) with
              format := formatString s.sel.level s.winnerMask
              outValid := true }) := by
  unfold fmtStage
  cases hv : s.sel.version with
  | none => exact .inl ⟨.inl rfl, rfl⟩
  | some v =>
    cases hw : s.winnerValid with
    | false => exact .inl ⟨.inr rfl, by simp⟩
    | true => exact .inr ⟨v, rfl, rfl, by simp⟩

/-! ### Candidates in memory -/

/-- The eight candidate buffers do not meet each other (10_state section 3). -/
theorem candStart (m : Fin 8) : (Buffer.cand m).start = 0x600 + 0x80 * m.val := rfl

/-- A byte after a list of candidates was written: outside all of them it is as before. -/
theorem State.readByte_foldl_writeMatrix (f : Fin 8 → Matrix) (ms : List (Fin 8)) (s : State) (x : Nat)
    (h : ∀ m ∈ ms, ¬ ((Buffer.cand m).start ≤ x ∧ x < (Buffer.cand m).start + 116)) :
    (ms.foldl (fun t m => t.writeMatrix (.cand m) (f m)) s).readByte x = s.readByte x := by
  induction ms generalizing s with
  | nil => rfl
  | cons m ms ih =>
    rw [List.foldl_cons, ih _ (fun k hk => h k (by simp [hk])), State.readByte_writeMatrix,
      if_neg (h m (by simp))]

/-- A candidate buffer's bytes after a list of candidates was written, the buffer's own among them once. -/
theorem State.readByte_foldl_writeMatrix_mem (f : Fin 8 → Matrix) (ms : List (Fin 8)) (hn : ms.Nodup)
    (s : State) (m : Fin 8) (hm : m ∈ ms) (x : Nat)
    (hx : (Buffer.cand m).start ≤ x ∧ x < (Buffer.cand m).start + 116) :
    (ms.foldl (fun t m => t.writeMatrix (.cand m) (f m)) s).readByte x =
      (bytesOfRow (Matrix.row (f m) ((x - (Buffer.cand m).start) / 4))).getD
        ((x - (Buffer.cand m).start) % 4) 0 := by
  induction ms generalizing s with
  | nil => simp at hm
  | cons k ms ih =>
    rw [List.foldl_cons]
    rw [List.nodup_cons] at hn
    rcases List.mem_cons.1 hm with rfl | hm'
    · rw [State.readByte_foldl_writeMatrix, State.readByte_writeMatrix, if_pos hx]
      intro j hj hxj
      have hne : j ≠ m := fun he => hn.1 (he ▸ hj)
      have : j.val ≠ m.val := fun he => hne (Fin.ext he)
      rw [candStart] at hx hxj
      omega
    · exact ih hn.2 _ hm'

/-- Bytes outside CAND are as before (rule R240). -/
theorem State.readByte_writeCandidates (s : State) (b : Matrix) (v : Version) (x : Nat)
    (h : ∀ m : Fin 8, ¬ ((Buffer.cand m).start ≤ x ∧ x < (Buffer.cand m).start + 116)) :
    (s.writeCandidates b v).readByte x = s.readByte x :=
  State.readByte_foldl_writeMatrix _ _ s x (fun m _ => h m)

/-- Each candidate buffer reads back its candidate (rule R240). -/
theorem State.get_readMatrix_writeCandidates (s : State) (b : Matrix) (v : Version) (m : Fin 8) (r c : Nat) :
    Matrix.get ((s.writeCandidates b v).readMatrix (.cand m)) r c =
      (decide (r < 29) && Matrix.get (candidate b v m) r c) := by
  have hcongr : (s.writeCandidates b v).readMatrix (.cand m) =
      (s.writeMatrix (.cand m) (candidate b v m)).readMatrix (.cand m) := by
    apply State.readMatrix_congr
    intro x h1 h2
    rw [State.readByte_writeMatrix, if_pos ⟨h1, h2⟩]
    exact State.readByte_foldl_writeMatrix_mem _ _ (List.nodup_finRange 8) s m (List.mem_finRange m) x ⟨h1, h2⟩
  rw [hcongr, State.get_readMatrix_writeMatrix]

end Sys2Proof.Machine
end

