-- ==== Sys2Proof/Laws/Bus.lean ====
section
/-! SUPPORT. What a host access, a soft reset and a step can do, said once. -/

namespace Sys2Proof.Machine

/-! ### Accesses -/

/-- Everything a host read can do (rules R308, R342). -/
theorem State.hostRead_cases (s : State) (width off : Nat) :
    ((width ≠ 32 ∨ locate off = none) ∧ s.hostRead width off = s.reply .busError) ∨
    (∃ loc, width = 32 ∧ locate off = some loc ∧ s.busy = true ∧ loc.exactWhileBusy = false ∧
      s.hostRead width off =
        { s with draws := s.draws + 1, answer := some (.data (Config.busyRead s.draws)) }) ∨
    (∃ loc, width = 32 ∧ locate off = some loc ∧ (s.busy = false ∨ loc.exactWhileBusy = true) ∧
      s.hostRead width off = s.reply (.data (s.valueAt off loc))) := by
  unfold State.hostRead
  by_cases hw : width = 32
  · subst hw
    cases hl : locate off with
    | none => exact .inl ⟨.inr rfl, rfl⟩
    | some loc =>
      cases hb : s.busy <;> cases he : loc.exactWhileBusy
      · exact .inr (.inr ⟨loc, rfl, rfl, .inl rfl, by simp⟩)
      · exact .inr (.inr ⟨loc, rfl, rfl, .inl rfl, by simp⟩)
      · exact .inr (.inl ⟨loc, rfl, rfl, rfl, he, by simp [he]⟩)
      · exact .inr (.inr ⟨loc, rfl, rfl, .inr he, by simp [he]⟩)
  · exact .inl ⟨.inl hw, if_pos hw⟩

/-- Everything a host write can do (rules R308, R340, R341). -/
theorem State.hostWrite_cases (s : State) (width off : Nat) (v : Word) :
    ((width ≠ 32 ∨ locate off = none ∨ ∃ loc, locate off = some loc ∧ s.writePermitted loc = false) ∧
      s.hostWrite width off v = s.reply .busError) ∨
    (∃ loc, width = 32 ∧ locate off = some loc ∧ s.writePermitted loc = true ∧
      s.hostWrite width off v = (s.performWrite off v loc).reply .accepted) := by
  unfold State.hostWrite
  by_cases hw : width = 32
  · subst hw
    cases hl : locate off with
    | none => exact .inl ⟨.inr (.inl rfl), rfl⟩
    | some loc =>
      cases hp : s.writePermitted loc with
      | false => exact .inl ⟨.inr (.inr ⟨loc, rfl, hp⟩), by simp [hp]⟩
      | true => exact .inr ⟨loc, rfl, rfl, hp, by simp [hp]⟩
  · exact .inl ⟨.inl hw, if_pos hw⟩

/-- A read while idle gives the exact value (rules R82, R342). -/
theorem State.hostRead_idle (s : State) (off : Nat) (loc : Location) (hi : s.inflight = none)
    (hl : locate off = some loc) : s.hostRead 32 off = s.reply (.data (s.valueAt off loc)) := by
  unfold State.hostRead State.busy
  rw [if_neg (by simp), hl, hi]
  rfl

/-- A read while BUSY of a location that is not exact then is a draw (rule R342). -/
theorem State.hostRead_draw (s : State) (off : Nat) (loc : Location) (hb : s.busy = true)
    (hl : locate off = some loc) (he : loc.exactWhileBusy = false) :
    s.hostRead 32 off =
      { s with draws := s.draws + 1, answer := some (.data (Config.busyRead s.draws)) } := by
  unfold State.hostRead
  rw [if_neg (by simp), hl, hb]
  exact if_pos (by simp [he])

/-- A read of a location that is exact at all times (rule R342). -/
theorem State.hostRead_exact (s : State) (off : Nat) (loc : Location) (hl : locate off = some loc)
    (he : loc.exactWhileBusy = true) : s.hostRead 32 off = s.reply (.data (s.valueAt off loc)) := by
  unfold State.hostRead
  rw [if_neg (by simp), hl]
  exact if_neg (by simp [he])

/-- A permitted write is performed (rules R308, R340, R341). -/
theorem State.hostWrite_permitted (s : State) (off : Nat) (v : Word) (loc : Location)
    (hl : locate off = some loc) (hp : s.writePermitted loc = true) :
    s.hostWrite 32 off v = (s.performWrite off v loc).reply .accepted := by
  unfold State.hostWrite
  rw [if_neg (by simp), hl]
  exact if_pos hp

/-- A write that is not permitted is a bus error (rules R308, R340). -/
theorem State.hostWrite_refused (s : State) (off : Nat) (v : Word) (loc : Location)
    (hl : locate off = some loc) (hp : s.writePermitted loc = false) :
    s.hostWrite 32 off v = s.reply .busError := by
  unfold State.hostWrite
  rw [if_neg (by simp), hl]
  exact if_neg (by simp [hp])

/-- While idle every writable location may be written, and CTRL at all times (rules R340, R341). -/
theorem State.writePermitted_idle (s : State) (loc : Location) (hi : s.inflight = none) :
    s.writePermitted loc = loc.hostWritable := by
  unfold State.writePermitted State.busy
  rw [hi]
  simp

theorem State.writePermitted_ctrl (s : State) : s.writePermitted .ctrl = true := by
  unfold State.writePermitted Location.hostWritable
  simp

/-! ### Soft reset -/

/-- Making buffers unspecified changes memory and the draws alone. -/
theorem State.unspecifyAll_eq (s : State) (bs : List Buffer) :
    s.unspecifyAll bs = { s with mem := (s.unspecifyAll bs).mem, epochs := (s.unspecifyAll bs).epochs } := by
  unfold State.unspecifyAll
  induction bs generalizing s with
  | nil => rfl
  | cons b bs ih => rw [List.foldl_cons, ih]; rfl

/-- Cells outside the buffers made unspecified are listed as before (rule R332). -/
theorem State.lookup_unspecifyAll (s : State) (bs : List Buffer) (x : Nat)
    (h : ∀ b ∈ bs, b.holds x = false) :
    Memory.lookup (s.unspecifyAll bs).mem x = Memory.lookup s.mem x := by
  unfold State.unspecifyAll
  induction bs generalizing s with
  | nil => rfl
  | cons b bs ih =>
    rw [List.foldl_cons, ih _ (fun k hk => h k (by simp [hk])), State.lookup_unspecify, if_neg]
    have := h b (by simp)
    simp only [Buffer.holds, Bool.and_eq_false_iff, decide_eq_false_iff_not] at this
    omega

/-- Soft reset keeps the canonical form of memory. -/
theorem State.wf_unspecifyAll (s : State) (bs : List Buffer) (h : Memory.wf s.mem = true) :
    Memory.wf (s.unspecifyAll bs).mem = true := by
  unfold State.unspecifyAll
  induction bs generalizing s with
  | nil => exact h
  | cons b bs ih =>
    rw [List.foldl_cons]
    exact ih _ (Memory.wf_forget _ _ _ h)

/-! ### One step -/

/-- Everything a step can do (rules R20, R105, R345). -/
theorem step_cases (s : State) :
    (s.inflight = none ∧ step s = .next s.hostMove) ∨
    (∃ f, s.inflight = some f ∧ s.latency ≠ 0 ∧ step s = .next s.hostMoveBusy) ∨
    (∃ f i, s.inflight = some f ∧ s.latency = 0 ∧ decode f.word = .ok i ∧ step s = exec i s) ∨
    (∃ f e, s.inflight = some f ∧ s.latency = 0 ∧ decode f.word = .error e ∧ step s = execIllegal s) := by
  unfold step runWord
  cases hf : s.inflight with
  | none => exact .inl ⟨rfl, rfl⟩
  | some f =>
    by_cases hl : s.latency = 0
    · cases hd : decode f.word with
      | ok i => exact .inr (.inr (.inl ⟨f, i, rfl, hl, hd, by simp [hl, hd]⟩))
      | error e => exact .inr (.inr (.inr ⟨f, e, rfl, hl, hd, by simp [hl, hd]⟩))
    · exact .inr (.inl ⟨f, rfl, hl, by simp [hl]⟩)

end Sys2Proof.Machine
end

