-- ==== Sys2Proof/Laws/Penalty.lean ====
section
/-! SUPPORT. What the loops of the penalty rules compute, said once for each: the maximal runs of a line, and how
far an anchor's rectangle grows (rules R245 and R246). -/

namespace Sys2Proof.Machine

/-! ### Runs -/

/-- runsFrom lists the lengths of the maximal runs of a line that begins with n cells of colour k. -/
theorem runsFrom_spec (line : List Bool) (k : Bool) (n : Nat) (hn : 0 < n) :
    ∃ len rest, cutsIntoRuns (List.replicate n k ++ line) ((k, len) :: rest) ∧
      runsFrom k n line = len :: rest.map (fun p => p.2) := by
  induction line generalizing k n with
  | nil => exact ⟨n, [], by simp [cutsIntoRuns, hn], rfl⟩
  | cons x xs ih =>
    by_cases hx : x = k
    · subst hx
      obtain ⟨len, rest, hcut, hrun⟩ := ih x (n + 1) (by omega)
      refine ⟨len, rest, ?_, by simpa [runsFrom] using hrun⟩
      rwa [List.replicate_succ', List.append_assoc, List.singleton_append] at hcut
    · obtain ⟨len, rest, ⟨hline, hpos, hchain⟩, hrun⟩ := ih x 1 (by omega)
      refine ⟨n, (x, len) :: rest, ⟨?_, ?_, ?_⟩, by simp [runsFrom, hx, hrun]⟩
      · rw [List.flatMap_cons, ← hline]
        rfl
      · intro p hp
        rcases List.mem_cons.1 hp with rfl | hp
        · exact hn
        · exact hpos p hp
      · exact List.isChain_cons_cons.2 ⟨fun h => hx h.symm, hchain⟩

/-- runLengths lists the lengths of the maximal runs of a line. -/
theorem runLengths_spec (line : List Bool) :
    ∃ runs, cutsIntoRuns line runs ∧ runLengths line = runs.map (fun p => p.2) := by
  cases line with
  | nil => exact ⟨[], by simp [cutsIntoRuns], rfl⟩
  | cons x xs =>
    obtain ⟨len, rest, hcut, hrun⟩ := runsFrom_spec xs x 1 (by omega)
    exact ⟨(x, len) :: rest, hcut, hrun⟩

/-! ### Growing rectangles -/

theorem columnUniform_iff (m : Matrix) (k : Bool) (r c h : Nat) :
    columnUniform m k r c h = true ↔ ∀ i < h, Matrix.get m (r + i) c = k := by
  simp [columnUniform]

theorem rowUniform_iff (m : Matrix) (k : Bool) (r c w : Nat) :
    rowUniform m k r c w = true ↔ ∀ j < w, Matrix.get m r (c + j) = k := by
  simp [rowUniform]

/-- One column more: the rectangle grows in width iff the next column is there and has the colour. -/
theorem uniformBlock_succ_width {m : Matrix} {n r c w h : Nat} (hu : uniformBlock m n r c w h) :
    uniformBlock m n r c (w + 1) h ↔
      c + w < n ∧ columnUniform m (Matrix.get m r c) r (c + w) h = true := by
  rw [columnUniform_iff]
  constructor
  · rintro ⟨_, hc, hall⟩
    exact ⟨by omega, fun i hi => hall i w hi (by omega)⟩
  · rintro ⟨hc, hcol⟩
    refine ⟨hu.1, by omega, fun i j hi hj => ?_⟩
    by_cases hjw : j = w
    · subst hjw; exact hcol i hi
    · exact hu.2.2 i j hi (by omega)

/-- One row more: the same for the height. -/
theorem uniformBlock_succ_height {m : Matrix} {n r c w h : Nat} (hu : uniformBlock m n r c w h) :
    uniformBlock m n r c w (h + 1) ↔ r + h < n ∧ rowUniform m (Matrix.get m r c) (r + h) c w = true := by
  rw [rowUniform_iff]
  constructor
  · rintro ⟨hr, _, hall⟩
    exact ⟨by omega, fun j hj => hall h j (by omega) hj⟩
  · rintro ⟨hr, hrow⟩
    refine ⟨by omega, hu.2.1, fun i j hi hj => ?_⟩
    by_cases hih : i = h
    · subst hih; exact hrow j hj
    · exact hu.2.2 i j (by omega) hj

/-- One column and one row more: the guard of phase 1. -/
theorem uniformBlock_succ_both {m : Matrix} {n r c w : Nat} (hu : uniformBlock m n r c w w) :
    uniformBlock m n r c (w + 1) (w + 1) ↔
      r + w < n ∧ c + w < n ∧ columnUniform m (Matrix.get m r c) r (c + w) (w + 1) = true ∧
        rowUniform m (Matrix.get m r c) (r + w) c (w + 1) = true := by
  rw [columnUniform_iff, rowUniform_iff]
  constructor
  · rintro ⟨hr, hc, hall⟩
    exact ⟨by omega, by omega, fun i hi => hall i w hi (by omega), fun j hj => hall w j (by omega) hj⟩
  · rintro ⟨hr, hc, hcol, hrow⟩
    refine ⟨by omega, by omega, fun i j hi hj => ?_⟩
    by_cases hjw : j = w
    · subst hjw; exact hcol i hi
    · by_cases hiw : i = w
      · subst hiw; exact hrow j hj
      · exact hu.2.2 i j (by omega) (by omega)

/-- Phase 1 ends at the largest one-coloured square. -/
theorem growBoth_spec (m : Matrix) (n r c fuel w : Nat) (hu : uniformBlock m n r c w w)
    (hf : n < fuel + (r + w)) : ∃ k, growBoth m n (Matrix.get m r c) r c fuel w w = (k, k) ∧ w ≤ k ∧
      uniformBlock m n r c k k ∧ ¬ uniformBlock m n r c (k + 1) (k + 1) := by
  induction fuel generalizing w with
  | zero => have := hu.1; omega
  | succ fuel ih =>
    unfold growBoth
    split
    · rename_i h
      obtain ⟨k, h1, h2, h3⟩ := ih (w + 1) ((uniformBlock_succ_both hu).2 h) (by omega)
      exact ⟨k, h1, by omega, h3⟩
    · rename_i h
      exact ⟨w, rfl, Nat.le_refl w, hu, fun hb => h ((uniformBlock_succ_both hu).1 hb)⟩

/-- Phase 2 ends at the largest width for the height. -/
theorem growWidth_spec (m : Matrix) (n r c h fuel w : Nat) (hu : uniformBlock m n r c w h)
    (hf : n < fuel + (c + w)) : w ≤ growWidth m n (Matrix.get m r c) r c h fuel w ∧
      uniformBlock m n r c (growWidth m n (Matrix.get m r c) r c h fuel w) h ∧
      ¬ uniformBlock m n r c (growWidth m n (Matrix.get m r c) r c h fuel w + 1) h := by
  induction fuel generalizing w with
  | zero => have := hu.2.1; omega
  | succ fuel ih =>
    unfold growWidth
    split
    · rename_i hg
      obtain ⟨h1, h2⟩ := ih (w + 1) ((uniformBlock_succ_width hu).2 hg) (by omega)
      exact ⟨by omega, h2⟩
    · rename_i hg
      exact ⟨Nat.le_refl w, hu, fun hb => hg ((uniformBlock_succ_width hu).1 hb)⟩

/-- Phase 3 ends at the largest height for the width. -/
theorem growHeight_spec (m : Matrix) (n r c w fuel h : Nat) (hu : uniformBlock m n r c w h)
    (hf : n < fuel + (r + h)) : h ≤ growHeight m n (Matrix.get m r c) r c w fuel h ∧
      uniformBlock m n r c w (growHeight m n (Matrix.get m r c) r c w fuel h) ∧
      ¬ uniformBlock m n r c w (growHeight m n (Matrix.get m r c) r c w fuel h + 1) := by
  induction fuel generalizing h with
  | zero => have := hu.1; omega
  | succ fuel ih =>
    unfold growHeight
    split
    · rename_i hg
      obtain ⟨h1, h2⟩ := ih (h + 1) ((uniformBlock_succ_height hu).2 hg) (by omega)
      exact ⟨by omega, h2⟩
    · rename_i hg
      exact ⟨Nat.le_refl h, hu, fun hb => hg ((uniformBlock_succ_height hu).1 hb)⟩

/-- A single cell is a one-coloured rectangle. -/
theorem uniformBlock_one (m : Matrix) {n r c : Nat} (hr : r < n) (hc : c < n) :
    uniformBlock m n r c 1 1 := by
  refine ⟨by omega, by omega, fun i j hi hj => ?_⟩
  rw [show i = 0 by omega, show j = 0 by omega, Nat.add_zero, Nat.add_zero]

end Sys2Proof.Machine
end

