-- ==== Sys2Proof/Laws/PerInstr.lean ====
section
/-! SUPPORT. One family of statements about the commands as terms: the fields of an assembled word. -/

namespace Sys2Proof

/-- OPC of an assembled word (rules R100, R108). -/
theorem opc_assemble (opc a b : Byte) : CommandWord.opc (assemble opc a b) = opc := by
  apply BitVec.eq_of_getLsbD_eq
  intro i hi
  simp [CommandWord.opc, assemble, hi, show i < 16 by omega, show i < 32 by omega]

/-- C of an assembled word (rules R100, R108). -/
theorem fieldC_assemble (opc a b : Byte) : CommandWord.fieldC (assemble opc a b) = 0 := by
  apply BitVec.eq_of_getLsbD_eq
  intro i hi
  have h1 : opc.getLsbD (24 + i) = false := BitVec.getLsbD_of_ge _ _ (by omega)
  have h2 : a.getLsbD (24 + i - 8) = false := BitVec.getLsbD_of_ge _ _ (by omega)
  have h3 : b.getLsbD (24 + i - 16) = false := BitVec.getLsbD_of_ge _ _ (by omega)
  simp [CommandWord.fieldC, assemble, h1, h2, h3]

/-- The opcode of a command (rule R102). -/
def opcodeOf : Instr → Byte
  | .nop => 0x00
  | .gfmul _ _ => 0x01
  | .gflog _ => 0x02
  | .gfexp _ => 0x03
  | .rsenc _ _ => 0x10
  | .select _ => 0x20
  | .bitstr => 0x21
  | .eccil => 0x22
  | .build => 0x23
  | .masksc => 0x24
  | .fmt => 0x25
  | .encode _ => 0x2F

namespace Laws.EncodedFields

/-- A command's word has the command's opcode in OPC and 0 in C (rules R100, R102). -/
def Statement (i : Instr) : Prop :=
  CommandWord.opc (encode i) = opcodeOf i ∧ CommandWord.fieldC (encode i) = 0

theorem nop : Statement .nop := ⟨opc_assemble _ _ _, fieldC_assemble _ _ _⟩
theorem gfmul (a b : Byte) : Statement (.gfmul a b) := ⟨opc_assemble _ _ _, fieldC_assemble _ _ _⟩
theorem gflog (a : Byte) : Statement (.gflog a) := ⟨opc_assemble _ _ _, fieldC_assemble _ _ _⟩
theorem gfexp (e : Byte) : Statement (.gfexp e) := ⟨opc_assemble _ _ _, fieldC_assemble _ _ _⟩
theorem rsenc (k e : Byte) : Statement (.rsenc k e) := ⟨opc_assemble _ _ _, fieldC_assemble _ _ _⟩
theorem select (level : Byte) : Statement (.select level) := ⟨opc_assemble _ _ _, fieldC_assemble _ _ _⟩
theorem bitstr : Statement .bitstr := ⟨opc_assemble _ _ _, fieldC_assemble _ _ _⟩
theorem eccil : Statement .eccil := ⟨opc_assemble _ _ _, fieldC_assemble _ _ _⟩
theorem build : Statement .build := ⟨opc_assemble _ _ _, fieldC_assemble _ _ _⟩
theorem masksc : Statement .masksc := ⟨opc_assemble _ _ _, fieldC_assemble _ _ _⟩
theorem fmt : Statement .fmt := ⟨opc_assemble _ _ _, fieldC_assemble _ _ _⟩
theorem encode (level : Byte) : Statement (.encode level) := ⟨opc_assemble _ _ _, fieldC_assemble _ _ _⟩

end Laws.EncodedFields

end Sys2Proof
end

