-- ==== Sys2Proof/Tests/Slice0.lean ====
section
/-! SUPPORT. The model's own tests. Every expected value is the spec's (95_test_vectors, and the rule named with
the test); the last part holds a witness for the hypotheses of each statement of
Certificates/Slice0/Obligations.lean. -/

namespace Sys2Proof.Tests

set_option Elab.async false

open Sys2Proof Sys2Proof.Machine

/-! ### Helpers -/

/-- The state a command ends in. -/
def after (i : Instr) (s : State) : State :=
  match exec i s with
  | .next t => t
  | .fault _ => s
  | .refused _ => s

/-- Every command ends in a next state. -/
theorem exec_after (i : Instr) (s : State) : exec i s = .next (after i s) := by
  unfold after
  rw [exec_eq_finish]
  cases stageOf i s <;> rfl

/-- The state one step leads to. -/
def stepped (s : State) : State :=
  match step s with
  | .next t => t
  | .fault _ => s
  | .refused _ => s

/-- The error of a word that is no command. -/
def decodeError (w : Word) : Option DecodeError :=
  match decode w with
  | .ok _ => none
  | .error e => some e

/-- The command of a word. -/
def decoded (w : Word) : Option Instr := (decode w).toOption

/-- The host's state before a command: a text in TEXT and its length in TEXT_LEN. -/
def withText (t : List Byte) (s : State) : State :=
  { s.writeBytes 0x100 t with textLen := BitVec.ofNat 8 t.length }

/-- SEL written by the host. -/
def withSel (w : Word) (s : State) : State := { s with sel := selOfWord w }

/-- A matrix buffer with the given rows, the others 0. -/
def withMatrix (b : Buffer) (rows : List Row) (s : State) : State := s.writeMatrix b rows

/-- The row words of a matrix. -/
def rowsOf (s : State) (b : Buffer) : List Row := s.readMatrix b

/-- "12345", "19", "AB" and 26 letters. -/
def text12345 : List Byte := [0x31, 0x32, 0x33, 0x34, 0x35]
def text19 : List Byte := [0x31, 0x39]
def textAB : List Byte := [0x41, 0x42]
def text26 : List Byte := (List.range 26).map (fun i => BitVec.ofNat 8 (0x41 + i))

/-- The data codewords of "12345" and of "19" at level L (95_test_vectors section 2.5). -/
def data12345 : List Byte :=
  [0x10, 0x14, 0x7B, 0x5A, 0x00, 0xEC, 0x11, 0xEC, 0x11, 0xEC, 0x11, 0xEC, 0x11, 0xEC, 0x11, 0xEC, 0x11,
    0xEC, 0x11]
def data19 : List Byte :=
  [0x10, 0x08, 0x98, 0x00, 0xEC, 0x11, 0xEC, 0x11, 0xEC, 0x11, 0xEC, 0x11, 0xEC, 0x11, 0xEC, 0x11, 0xEC,
    0x11, 0xEC]

/-- BASE of "12345" at level L (rule R225). -/
def base12345 : List Row :=
  [0x001FCE7F, 0x00104441, 0x00174E5D, 0x0017405D, 0x0017405D, 0x00105A41, 0x001FD57F, 0x00001000,
    0x00001A40, 0x001AEDB2, 0x0012437D, 0x001CEC84, 0x000C0679, 0x00000500, 0x0009B87F, 0x00091641,
    0x0001BE5D, 0x0006E85D, 0x0004445D, 0x000EEC41, 0x0000027F]

/-- CAND[2] of "12345" at level L (rule R253). -/
def cand12345 : List Row :=
  [0x001FDC7F, 0x00105641, 0x00175C5D, 0x0017525D, 0x0017525D, 0x00104841, 0x001FD57F, 0x00000200,
    0x00000840, 0x001E7FBB, 0x0016D174, 0x00187E8D, 0x00089470, 0x00049700, 0x000D2A7F, 0x000D8441,
    0x00052C5D, 0x00027A5D, 0x0000D65D, 0x000A7E41, 0x0004907F]

/-- OUT of "12345" at level L (rule R275). -/
def out12345 : List Row :=
  [0x001FDC7F, 0x00105741, 0x00175C5D, 0x0017535D, 0x0017525D, 0x00104941, 0x001FD57F, 0x00000200,
    0x000AA9DF, 0x001E7FBB, 0x0016D174, 0x00187E8D, 0x00089470, 0x00049700, 0x000D2B7F, 0x000D8441,
    0x00052D5D, 0x00027B5D, 0x0000D75D, 0x000A7F41, 0x0004917F]

/-- The fixed pattern of version 1 (rule R217, column FIX v1). -/
def fixV1 : List Row :=
  [0x001FC07F, 0x00104041, 0x0017405D, 0x0017405D, 0x0017405D, 0x00104041, 0x001FD57F, 0x00000000,
    0x00000040, 0x00000000, 0x00000040]

/-- The 21×21 checkerboard, (r + c) even dark, changed where the function says so. -/
def checkerboard (change : Nat → Nat → Option Bool) : Matrix :=
  Matrix.ofCells 21 (fun r c => (change r c).getD ((r + c) % 2 == 0))

/-! ### Well-formedness smoke test: an ill-formed term for each check -/

/-- R106: nonzero C. -/
theorem test_wellFormed_reservedField : CommandWord.wellFormed 0x01000021 = false := by decide
/-- R106: a reserved opcode. -/
theorem test_wellFormed_reservedOpcode : CommandWord.wellFormed 0x00000004 = false := by decide
/-- R106: BITSTR with A = 1. -/
theorem test_wellFormed_unusedA : CommandWord.wellFormed 0x00000121 = false := by decide
/-- 95_test_vectors section 2.1: GFLOG with B nonzero. -/
theorem test_wellFormed_unusedB : CommandWord.wellFormed 0x00FF0002 = false := by decide
/-- R110: GFMUL 0x53, 0xCA is a command. -/
theorem test_wellFormed_accepts : CommandWord.wellFormed 0x00CA5301 = true := by decide
/-- R132: 0 has no logarithm. -/
theorem test_range_gflog :
    Instr.operandsInRange (.gflog 0) = false ∧ Instr.operandsInRange (.gflog 1) = true := by decide
/-- R150: the bounds of k, and an E outside E_SET. -/
theorem test_range_rsenc :
    Instr.operandsInRange (.rsenc 0 7) = false ∧ Instr.operandsInRange (.rsenc 65 7) = false ∧
    Instr.operandsInRange (.rsenc 1 8) = false ∧ Instr.operandsInRange (.rsenc 64 44) = true := by decide
/-- R171: 'X' is no level letter, 'm' is one. -/
theorem test_range_level :
    Instr.operandsInRange (.select 0x58) = false ∧ Instr.operandsInRange (.encode 0) = false ∧
    Instr.operandsInRange (.select 0x6D) = true ∧ Instr.operandsInRange (.encode 0x48) = true := by decide

/-! ### Decoding: words written out field by field (C, B, A, OPC) from rules R100 and R102 -/

theorem test_decode_nop :
    decoded 0b00000000_00000000_00000000_00000000 = some .nop := by decide
theorem test_decode_gfmul :
    decoded 0b00000000_11001010_01010011_00000001 = some (.gfmul 0x53 0xCA) := by decide
theorem test_decode_gflog :
    decoded 0b00000000_00000000_00011101_00000010 = some (.gflog 0x1D) := by decide
theorem test_decode_gfexp :
    decoded 0b00000000_00000000_11111110_00000011 = some (.gfexp 254) := by decide
theorem test_decode_rsenc :
    decoded 0b00000000_00000111_00010011_00010000 = some (.rsenc 19 7) := by decide
theorem test_decode_select :
    decoded 0b00000000_00000000_01001100_00100000 = some (.select 0x4C) := by decide
theorem test_decode_bitstr :
    decoded 0b00000000_00000000_00000000_00100001 = some .bitstr := by decide
theorem test_decode_eccil :
    decoded 0b00000000_00000000_00000000_00100010 = some .eccil := by decide
theorem test_decode_build :
    decoded 0b00000000_00000000_00000000_00100011 = some .build := by decide
theorem test_decode_masksc :
    decoded 0b00000000_00000000_00000000_00100100 = some .masksc := by decide
theorem test_decode_fmt :
    decoded 0b00000000_00000000_00000000_00100101 = some .fmt := by decide
theorem test_decode_encode :
    decoded 0b00000000_00000000_01101000_00101111 = some (.encode 0x68) := by decide

/-- 95_test_vectors section 2.1: the illegal words, each refused by its own name. -/
theorem test_decode_illegal :
    decodeError 0xFF000001 = some .reservedFieldNonzero ∧
    decodeError 0x000000FF = some (.reservedOpcode 0xFF) ∧
    decodeError 0x00000100 = some (.unusedANonzero 0x00) ∧
    decodeError 0x00FF0002 = some (.unusedBNonzero 0x02) := by decide

/-- The host's two questions on a table word. -/
theorem test_decodeTableWord :
    decodeTableWord 32 0x00071310 = some (.rsenc 19 7) ∧ decodeTableWord 8 0x21 = some .bitstr ∧
    decodeTableWord 32 0x04 = none := by decide

/-- A word placed by withFetchWord is what the next step runs (95_test_vectors section 2.2). -/
theorem test_withFetchWord_runs :
    (stepped (State.reset.withFetchWord 32 0x00CA5301)).result = 0x8F := by decide +kernel

/-! ### GF(256) (95_test_vectors section 2.2, program P1) -/

theorem test_nop_status :
    (stepped (State.reset.withFetchWord 32 0)).statusWord = 0x00000002 := by decide +kernel
theorem test_nop_keepsOutput :
    (stepped ({ State.reset with outValid := true }.withFetchWord 32 0)).statusWord = 0x0000000A := by
  decide +kernel
theorem test_gfmul_wrapsExponent : (after (.gfmul 0xFF 0xFF) State.reset).result = 0xE2 := by decide +kernel
theorem test_gfmul_zero :
    (after (.gfmul 0 0xCA) { State.reset with result := 1 }).result = 0 := by decide +kernel
theorem test_gflog_largest : (after (.gflog 0x8E) State.reset).result = 254 := by decide +kernel
/-- Program P1: GFLOG 0 leaves RESULT and reads STATUS 0x00020604. -/
theorem test_gflog_zero :
    (stepped ({ State.reset with result := 1 }.withFetchWord 32 2)).statusWord = 0x00020604 ∧
    (stepped ({ State.reset with result := 1 }.withFetchWord 32 2)).result = 1 := by decide +kernel
theorem test_gfexp_last : (after (.gfexp 254) State.reset).result = 0x8E := by decide +kernel
theorem test_gfexp_wraps : (after (.gfexp 255) State.reset).result = 1 := by decide +kernel

/-! ### RSENC (95_test_vectors section 2.3) -/

/-- A zero leading term with RS_CLEAN = 0: the message 00 01. -/
theorem test_rsenc_quirk :
    (after (.rsenc 2 7) (State.reset.writeBytes 0x200 [0, 1])).readBuffer .ecc 7 =
      [0xF4, 0x8F, 0xCD, 0x64, 0x11, 0x66, 0xA5] := by decide +kernel
/-- The same message with RS_CLEAN = 1. -/
theorem test_rsenc_clean :
    (after (.rsenc 2 7) { State.reset.writeBytes 0x200 [0, 1] with rsClean := true }).readBuffer .ecc 7 =
      [0x7F, 0x7A, 0x9A, 0xA4, 0x0B, 0x44, 0x75] := by decide +kernel

/-! ### SELECT and BITSTR (95_test_vectors sections 2.4 and 2.5) -/

theorem test_select_nextVersion :
    selWord (after (.select 0x4C) (withText text26 State.reset)).sel = 0x00000012 := by decide +kernel
/-- "a#" passes SELECT: characters are not checked until BITSTR. -/
theorem test_select_unchecked :
    selWord (after (.select 0x4C) (withText [0x61, 0x23] State.reset)).sel = 0x00000011 := by decide +kernel
theorem test_bitstr_numeric :
    (after .bitstr (withText text12345 (withSel 0x001 State.reset))).readBuffer .data 19 = data12345 ∧
    (after .bitstr (withText text12345 (withSel 0x001 State.reset))).result = 31 := by decide +kernel
/-- "a" folds to "A" at (1, A, H): the data of "A". -/
theorem test_bitstr_folds :
    (after .bitstr (withText [0x61] (withSel 0x311 State.reset))).readBuffer .data 9 =
      [0x20, 0x09, 0x40, 0xEC, 0x11, 0xEC, 0x11, 0xEC, 0x11] := by decide +kernel

/-! ### ECCIL and BUILD (95_test_vectors sections 2.6 and 2.7) -/

/-- "19" at level L with RS_CLEAN = 0: the error codewords and the last words of STREAM. -/
theorem test_eccil_quirk :
    (after .eccil (withSel 0x001 (State.reset.writeBytes 0x200 data19))).readBuffer .ecc 7 =
      [0xC3, 0x25, 0x8D, 0x3B, 0x24, 0x27, 0xC2] ∧
    (after .eccil (withSel 0x001 (State.reset.writeBytes 0x200 data19))).readWord 0x310 = 0xC3EC11EC ∧
    (after .eccil (withSel 0x001 (State.reset.writeBytes 0x200 data19))).readWord 0x318 = 0x0000C227 := by
  decide +kernel
/-- Two blocks alternate: (3, Q) takes DATA[0], DATA[17], DATA[1] (rules R68, R205), and has 567 bits. -/
theorem test_eccil_interleaves :
    (after .eccil (withSel 0x203 (State.reset.writeBytes 0x200
      ((List.range 34).map (BitVec.ofNat 8))))).readBuffer .stream 4 = [0, 17, 1, 18] ∧
    (after .eccil (withSel 0x203 (State.reset.writeBytes 0x200
      ((List.range 34).map (BitVec.ofNat 8))))).streamLen = 567 := by decide +kernel
/-- An all-zero STREAM of 208 bits gives the fixed pattern (rule R217). -/
theorem test_build_fixedPattern :
    ((rowsOf (after .build { withSel 0x001 (State.reset.writeBytes 0x300 (List.replicate 72 0)) with
      streamLen := 208 }) .base).take 11) = fixV1 := by decide +kernel
theorem test_build_mismatch :
    (after .build { withSel 0x001 State.reset with streamLen := 207 }).errcode =
      some .tableInconsistency := by decide +kernel

/-! ### Masks and penalties (rules R242, R245 to R248; 95_test_vectors section 2.8) -/

/-- Row 1 and row 2 of masks 6 and 7 (rule R242): x is the row. -/
theorem test_mask_axes :
    (List.range 6).map (maskPredicate 6 1) = [true, true, true, false, false, false] ∧
    (List.range 6).map (maskPredicate 7 2) = [true, false, false, false, true, true] ∧
    (List.range 6).map (maskPredicate 2 1) = [true, false, false, true, false, false] := by decide +kernel
/-- S5: a run of six light modules in row 0. -/
theorem test_rule1_run :
    score (checkerboard (fun r c => if r = 0 ∧ c < 6 then some false else none)) 21 = 4 := by decide +kernel
/-- Width grows before height: rule 2 is 21 and rule 1 is 3. -/
theorem test_rule2_growth :
    rule2 (checkerboard (fun r c =>
      if (r < 2 ∧ c < 4) ∨ (r = 2 ∧ c < 2) then some true
      else if r = 2 ∧ c = 2 then some false else none)) 21 = 21 := by decide +kernel
/-- Two overlapping matches in row 0 of an otherwise light matrix. -/
theorem test_rule3_overlap :
    rule3 (Matrix.ofCells 21 (fun r c => r == 0 && [4, 6, 7, 8, 10].contains c)) 21 = 80 := by decide +kernel
theorem test_rule4_steps :
    [0, 198, 199, 220, 221, 242, 243, 264, 265, 441].map (fun d => balancePenalty d 21) =
      [90, 10, 0, 0, 0, 0, 10, 10, 20, 100] := by decide +kernel
/-- MASKSC on BASE of "12345" (rule R253): candidate 2, row 9 masked and row 6 reserved, and its score. -/
theorem test_masksc_candidate :
    (rowsOf (after .masksc (withSel 0x001 (withMatrix .base base12345 State.reset))) (.cand 2)).take 10 =
      cand12345.take 10 := by decide +kernel
theorem test_masksc_score : score cand12345 21 = 649 := by decide +kernel

/-! ### FMT and ENCODE (rule R275; 95_test_vectors section 2.9) -/

theorem test_fmt_example :
    (rowsOf (after .fmt { withSel 0x001 (withMatrix (.cand 2) cand12345 State.reset) with
      winnerMask := 2, winnerValid := true }) .out).take 21 = out12345 := by decide +kernel
/-- R271: level H, mask 0. -/
theorem test_fmt_source : formatString .levelH 0 = 0b001011010001001 := by decide +kernel
/-- Program P2, its STATUS. -/
theorem test_encode_example :
    (stepped ((withText text12345 State.reset).withFetchWord 32 0x00004C2F)).statusWord = 0x002F000A := by
  decide +kernel
theorem test_encode_badLevel :
    (stepped (State.reset.withFetchWord 32 0x2F)).statusWord = 0x002F0304 := by decide +kernel

/-! ### Registers, bus and reset (95_test_vectors section 2.10) -/

theorem test_bus_sel :
    ((State.reset.hostWrite 32 0x018 0xFFFFFFFF).hostRead 32 0x018).answer =
      some (.data 0x00000313) := by decide +kernel
theorem test_bus_info :
    ((withSel 0x302 State.reset).hostRead 32 0x044).answer = some (.data 0x19011C10) ∧
    ((withSel 0x302 State.reset).hostRead 32 0x04C).answer = some (.data 0x00000167) := by decide +kernel
theorem test_bus_refused :
    (State.reset.hostRead 32 0x050).answer = some .busError ∧
    (State.reset.hostRead 32 0x602).answer = some .busError ∧
    (State.reset.hostRead 16 0x100).answer = some .busError ∧
    (State.reset.hostRead 32 (0x600 + 4 * 29)).answer = some .busError ∧
    (State.reset.hostWrite 32 0x000 1).answer = some .busError := by decide +kernel
theorem test_bus_softReset :
    ((State.reset.hostWrite 32 0x004 1).hostRead 32 0x004).answer = some (.data 1) ∧
    ((State.reset.hostWrite 32 0x004 3).hostRead 32 0x004).answer = some (.data 0) := by decide +kernel
/-- R72 and R65: no step of a command reads outside the ROMs; the generator of each E has E + 1 terms. -/
theorem test_rom_generators : Config.eSet.all (fun e => (genPoly e).length == e + 1) = true := by
  decide +kernel

/-! ### Witnesses: concrete values that meet the hypotheses of each statement, clause by clause

A hypothesis `exec i s = .next t` is met by `t = after i s`, theorem exec_after. -/

/-- A word that no command has. -/
theorem ne_ok_of_decoded {w : Word} (h : decoded w = none) (i : Instr) : decode w ≠ .ok i := by
  intro hd
  rw [decoded, hd] at h
  cases h

/-- The text BITSTR reads. -/
def textRead (s : State) : List Byte :=
  foldText s.sel.mode ((List.range s.textLen.toNat).map (fun i => s.readByte (0x100 + i)))

/-- What SELECT's mode says of a text. -/
abbrev allDigits (s : State) : Prop :=
  ∀ i < s.textLen.toNat, 0x30 ≤ (s.readByte (0x100 + i)).toNat ∧ (s.readByte (0x100 + i)).toNat ≤ 0x39

/-- n digits 0 and n letters A. -/
def zeros (n : Nat) : List Byte := List.replicate n 0x30
def letters (n : Nat) : List Byte := List.replicate n 0x41

theorem witness_EncodeDecodeInverse : decode 0x00CA5301 = .ok (.gfmul 0x53 0xCA) := rfl

theorem witness_IllegalWordsFaultIllegalCommand :
    (State.reset.withFetchWord 32 4).inflight = some { word := 4, clean := false } ∧
    (State.reset.withFetchWord 32 4).latency = 0 ∧ ∀ i, decode 4 ≠ .ok i :=
  ⟨by decide +kernel, rfl, ne_ok_of_decoded (by decide)⟩

theorem witness_WriteToCmdIssuesCommand :
    State.reset.inflight = none ∧ (State.reset.accept 0).busy = true := by decide +kernel

theorem witness_StepRunsDecodedCommand :
    (State.reset.inflight = none ∧ State.reset.bus = []) ∧
    ({ State.reset with bus := [.read 32 0] }.inflight = none ∧
      { State.reset with bus := [.read 32 0] }.bus = .read 32 0 :: []) ∧
    ({ State.reset.accept 0 with latency := 1 }.inflight = some { word := 0, clean := false } ∧
      { State.reset.accept 0 with latency := 1 }.latency ≠ 0 ∧
      { State.reset.accept 0 with latency := 1 }.bus = []) ∧
    ({ State.reset.accept 0 with latency := 1, bus := [.read 32 0] }.inflight =
        some { word := 0, clean := false } ∧
      { State.reset.accept 0 with latency := 1, bus := [.read 32 0] }.latency ≠ 0 ∧
      { State.reset.accept 0 with latency := 1, bus := [.read 32 0] }.bus = .read 32 0 :: []) ∧
    ((State.reset.accept 0).inflight = some { word := 0, clean := false } ∧
      (State.reset.accept 0).latency = 0 ∧ decode 0 = .ok .nop) :=
  ⟨by decide +kernel, by decide +kernel, by decide +kernel, by decide +kernel, by decide +kernel,
    by decide +kernel, rfl⟩

theorem witness_AcceptedCommandEnds :
    { State.reset.accept 0 with latency := 5 }.inflight = some { word := 0, clean := false } := by
  decide +kernel

theorem witness_NopChangesStatusOnly :
    CommandWord.opc 0x100 = 0 ∧ (0x100 : Word) ≠ 0 := by decide

theorem witness_GflogWritesLogarithm : (0xFF : Byte) ≠ 0 ∧ (0 : Byte) = 0 := by decide

theorem witness_GfexpWritesPower :
    (0xFF : Byte) ≠ 0 ∧ (254 : Byte).toNat ≤ 254 ∧ (0 : Byte).toNat ≤ 254 := by decide

theorem witness_ExpAndLogAreInverse : 253 < 254 ∧ (1 : Byte) ≠ 0 ∧ (0xFF : Byte) ≠ 0 ∧ 254 < 255 := by decide

theorem witness_FieldLaws : (0xFF : Byte) ≠ 0 := by decide

theorem witness_RsencWritesErrorCodewords :
    ((0 : Byte).toNat < 1) ∧ (64 < (65 : Byte).toNat) ∧
    ((8 : Byte).toNat ∉ [7, 10, 13, 15, 16, 17, 18, 22, 26, 28, 36, 44]) ∧
    (1 ≤ (1 : Byte).toNat ∧ (1 : Byte).toNat ≤ 64 ∧
      (7 : Byte).toNat ∈ [7, 10, 13, 15, 16, 17, 18, 22, 26, 28, 36, 44]) ∧
    (1 ≤ (64 : Byte).toNat ∧ (64 : Byte).toNat ≤ 64 ∧
      (44 : Byte).toNat ∈ [7, 10, 13, 15, 16, 17, 18, 22, 26, 28, 36, 44]) := by decide

theorem witness_RemainderHasErrorCount :
    (([0] : List Byte) ≠ [] ∧ 7 ∈ Config.eSet) ∧ (data12345 ≠ [] ∧ 44 ∈ Config.eSet) := by decide

theorem witness_CleanCodewordsVanishAtRoots :
    (([1] : List Byte) ≠ [] ∧ 7 ∈ Config.eSet ∧ 6 < 7) ∧
    (([0, 1] : List Byte) ≠ [] ∧ 44 ∈ Config.eSet ∧ 43 < 44) := by decide

theorem witness_ModesAgreeWithoutZeroLead :
    7 ∈ Config.eSet ∧ ∀ j < data12345.length, (rsSteps (genPoly 7) true j data12345).headD 0 ≠ 0 := by
  decide +kernel

theorem witness_LevelBytesAreDecoded :
    (0x58 : Byte) ∉ [0x4C, 0x6C, 0x4D, 0x6D, 0x51, 0x71, 0x48, 0x68] := by decide

theorem witness_SelectChoosesSmallestVersion :
    -- any text, a byte that is no level letter
    ((Mode.numeric = .numeric ↔ allDigits State.reset) ∧ levelOfByte 0x58 = none) ∧
    -- 129 and 128 digits at level L
    ((Mode.numeric = .numeric ↔ allDigits (withText (zeros 129) State.reset)) ∧
      levelOfByte 0x4C = some .levelL ∧ 128 < (withText (zeros 129) State.reset).textLen.toNat) ∧
    ((Mode.numeric = .numeric ↔ allDigits (withText (zeros 128) State.reset)) ∧
      levelOfByte 0x4C = some .levelL ∧
      capacity .numeric .v1 .levelL < (withText (zeros 128) State.reset).textLen.toNat ∧
      capacity .numeric .v2 .levelL < (withText (zeros 128) State.reset).textLen.toNat ∧
      capacity .numeric .v3 .levelL < (withText (zeros 128) State.reset).textLen.toNat) ∧
    -- 25 and 26 letters at level L
    ((Mode.alphanumeric = .numeric ↔ allDigits (withText (letters 25) State.reset)) ∧
      levelOfByte 0x4C = some .levelL ∧ (withText (letters 25) State.reset).textLen.toNat ≤ 128 ∧
      (withText (letters 25) State.reset).textLen.toNat ≤ capacity .alphanumeric .v1 .levelL) ∧
    ((Mode.alphanumeric = .numeric ↔ allDigits (withText (letters 26) State.reset)) ∧
      levelOfByte 0x4C = some .levelL ∧ (withText (letters 26) State.reset).textLen.toNat ≤ 128 ∧
      (withText (letters 26) State.reset).textLen.toNat ≤ capacity .alphanumeric .v2 .levelL ∧
      capacity .alphanumeric .v1 .levelL < (withText (letters 26) State.reset).textLen.toNat) := by
  decide +kernel

/-- Two states that agree on the text and differ elsewhere. -/
theorem witness_SelectDependsOnTextAlone :
    (withText text19 State.reset).textLen = (withText text19 { State.reset with result := 7 }).textLen ∧
    (∀ i < (withText text19 State.reset).textLen.toNat, (withText text19 State.reset).readByte (0x100 + i) =
      (withText text19 { State.reset with result := 7 }).readByte (0x100 + i)) ∧
    (withText text19 State.reset).err = false ∧
    (withText text19 { State.reset with result := 7 }).err = false ∧
    (after (.select 0x4C) (withText text19 State.reset)).err = false ∧
    (after (.select 0x58) (withText text19 State.reset)).err = true := by decide +kernel

theorem witness_BitstrWritesDataCodewords :
    State.reset.sel.version = none ∧
    ({ withSel 0x011 State.reset with textLen := 129 }.sel.version = some .v1 ∧
      128 < { withSel 0x011 State.reset with textLen := 129 }.textLen.toNat) ∧
    ((withText textAB (withSel 0x001 State.reset)).sel.version = some .v1 ∧
      (withText textAB (withSel 0x001 State.reset)).textLen.toNat ≤ 128 ∧
      charsOk .numeric (textRead (withText textAB (withSel 0x001 State.reset))) = false) ∧
    ((withText text26 (withSel 0x011 State.reset)).sel.version = some .v1 ∧
      (withText text26 (withSel 0x011 State.reset)).textLen.toNat ≤ 128 ∧
      charsOk .alphanumeric (textRead (withText text26 (withSel 0x011 State.reset))) = true ∧
      dataStream (textRead (withText text26 (withSel 0x011 State.reset))) .alphanumeric .v1 .levelL = none) ∧
    ((withText textAB (withSel 0x011 State.reset)).sel.version = some .v1 ∧
      (withText textAB (withSel 0x011 State.reset)).textLen.toNat ≤ 128 ∧
      charsOk .alphanumeric (textRead (withText textAB (withSel 0x011 State.reset))) = true ∧
      (dataStream (textRead (withText textAB (withSel 0x011 State.reset))) .alphanumeric .v1 .levelL).isSome) := by
  decide +kernel

/-- 42 digits do not fit (1, L), 41 do. The 31 bits of "12345" end in a terminator, bits up to 40 and 14 pad
bytes, the first and the last of which are named. -/
theorem witness_DataStreamFillsCodewords :
    8 * dataCodewords .v1 .levelL < (header .numeric (zeros 42)).length ∧
    (header .numeric (zeros 41)).length ≤ 8 * dataCodewords .v1 .levelL ∧
    (header .numeric text12345).length = 31 ∧ alignedLength 31 (8 * dataCodewords .v1 .levelL) = 40 ∧
    (31 ≤ 31 ∧ 31 < 40) ∧ (31 ≤ 39 ∧ 39 < 40) ∧
    40 + 8 * 0 < 8 * dataCodewords .v1 .levelL ∧ 40 + 8 * 13 < 8 * dataCodewords .v1 .levelL ∧
    ¬ 40 + 8 * 14 < 8 * dataCodewords .v1 .levelL ∧ 7 < 8 := by decide +kernel

theorem witness_SelectedTextFits :
    (withText text19 State.reset).err = false ∧
    (after (.select 0x4C) (withText text19 State.reset)).err = false := by decide +kernel

theorem witness_FirstCodewordHoldsModeIndicator :
    (withText textAB (withSel 0x011 State.reset)).err = false ∧
    (after .bitstr (withText textAB (withSel 0x011 State.reset))).err = false := by decide +kernel

theorem witness_EccilWritesStream :
    State.reset.sel.version = none ∧ (withSel 0x001 State.reset).sel.version = some .v1 ∧
    (withSel 0x203 State.reset).sel.version = some .v3 := by decide +kernel

/-- One block at (1, L) and two at (3, Q), with the ends of the index ranges. -/
theorem witness_InterleavingOrder :
    (data12345.length = dataCodewords .v1 .levelL ∧ blocks .v1 .levelL = 1 ∧
      25 < (codewordSequence .v1 .levelL false data12345).length ∧ 7 < 8) ∧
    ((zeros 34).length = dataCodewords .v3 .levelQ ∧ blocks .v3 .levelQ = 2 ∧
      (zeros 34).take (blockData .v3 .levelQ) = zeros 17 ∧ (zeros 34).drop (blockData .v3 .levelQ) = zeros 17 ∧
      16 < blockData .v3 .levelQ ∧ 17 < blockErrors .v3 .levelQ) := by decide +kernel

theorem witness_FinalStreamFillsPath :
    data12345.length = dataCodewords .v1 .levelL ∧ (zeros 34).length = dataCodewords .v3 .levelQ := by
  decide +kernel

theorem witness_BuildAcceptsEccilOutput :
    (withSel 0x001 State.reset).err = false ∧ (after .eccil (withSel 0x001 State.reset)).err = false := by
  decide +kernel

theorem witness_BuildPlacesStream :
    State.reset.sel.version = none ∧
    ({ withSel 0x001 State.reset with streamLen := 207 }.sel.version = some .v1 ∧
      { withSel 0x001 State.reset with streamLen := 207 }.streamLen.toNat ≠ (path .v1).length) ∧
    ({ withSel 0x001 State.reset with streamLen := 208 }.sel.version = some .v1 ∧
      { withSel 0x001 State.reset with streamLen := 208 }.streamLen.toNat = (path .v1).length ∧
      (path .v1)[0]? = some (20, 20) ∧ (path .v1)[207]?.isSome ∧
      reserved .v1 8 13 = true ∧ Version.side .v1 ≤ 21) := by decide +kernel

theorem witness_MaskscScoresCandidates :
    State.reset.sel.version = none ∧ (withSel 0x003 State.reset).sel.version = some .v3 ∧
    (0 < Version.side .v1 ∧ 20 < Version.side .v1) ∧ (0 < Version.side .v3 ∧ 28 < Version.side .v3) := by
  decide +kernel

/-- S5 (95_test_vectors): a line with one run of six, cut into its runs; the run adds 4. -/
theorem test_rule1_cut :
    cutsIntoRuns [true, false, false, false, false, false, false, true] [(true, 1), (false, 6), (true, 1)] ∧
    linePenalty1 [true, false, false, false, false, false, false, true] = 4 :=
  ⟨⟨rfl, by decide, by simp⟩, rfl⟩

theorem witness_CandidateKeepsReservedCells :
    (20 < Version.side .v1 ∧ 8 < Version.side .v1 ∧ reserved .v1 20 8 = true) ∧
    (20 < Version.side .v1 ∧ reserved .v1 20 20 = false ∧ maskPredicate 0 20 20 = true) ∧
    (19 < Version.side .v1 ∧ reserved .v1 20 19 = false ∧ maskPredicate 0 20 19 = false) := by decide +kernel

theorem witness_BalancePenaltyValues :
    (0 < 21 ∧ 0 ≤ 21 ^ 2) ∧ (199 ≤ 21 ^ 2 ∧ 45 * 21 ^ 2 ≤ 100 * 199 ∧ 100 * 199 < 55 * 21 ^ 2) ∧
    (242 ≤ 21 ^ 2 ∧ 45 * 21 ^ 2 ≤ 100 * 242 ∧ 100 * 242 < 55 * 21 ^ 2) ∧ 441 = 21 ^ 2 := by decide

/-- Two states that agree on the version and BASE and differ elsewhere. -/
theorem witness_MaskscDependsOnBaseAlone :
    (withSel 0x001 State.reset).sel.version = some .v1 ∧
    (withSel 0x101 { State.reset with result := 7 }).sel.version = some .v1 ∧
    ∀ r c, r < Version.side .v1 → c < Version.side .v1 →
      Matrix.get ((withSel 0x001 State.reset).readMatrix .base) r c =
        Matrix.get ((withSel 0x101 { State.reset with result := 7 }).readMatrix .base) r c :=
  ⟨by decide +kernel, by decide +kernel, fun _ _ _ _ => rfl⟩

theorem witness_FmtWritesFormatString :
    State.reset.sel.version = none ∧ (withSel 0x001 State.reset).winnerValid = false ∧
    ({ withSel 0x001 State.reset with winnerValid := true }.sel.version = some .v1 ∧
      { withSel 0x001 State.reset with winnerValid := true }.winnerValid = true ∧
      (20, 8) = formatCellB (Version.side .v1) 14 ∧ (0, 8) = formatCellA 0 ∧
      (∀ i < 15, (20, 20) ≠ formatCellA i ∧ (20, 20) ≠ formatCellB (Version.side .v1) i) ∧
      Version.side .v1 ≤ 21) := by decide +kernel

theorem witness_EncodeEqualsItsStages : (withText text12345 State.reset).inflight = none := by
  decide +kernel

theorem witness_EncodeSucceedsOnEncodableText :
    levelOfByte 0x4C = some .levelL ∧ (withText (letters 77) State.reset).textLen.toNat ≤ 128 ∧
    (∀ i < (withText (letters 77) State.reset).textLen.toNat,
      encodableByte ((withText (letters 77) State.reset).readByte (0x100 + i)) = true) ∧
    (withText (letters 77) State.reset).textLen.toNat ≤
      capacity (modeOfText (withText (letters 77) State.reset).text) .v3 .levelL := by decide +kernel

theorem witness_EncodeFaultsLeaveNoOutput :
    (withText [0x23] State.reset).err = false ∧
    (after (.encode 0x4C) (withText [0x23] State.reset)).err = true := by decide +kernel

theorem witness_FaultsArePrecise :
    (∀ lc, Instr.gflog 0 ≠ .encode lc) ∧ State.reset.err = false ∧ (after (.gflog 0) State.reset).err = true :=
  ⟨fun _ h => (nomatch h), rfl, by decide +kernel⟩

/-- Every code but IllegalCommand, which no command raises. -/
theorem witness_FaultCodesByCommand :
    State.reset.err = false ∧ (after (.select 0x4C) { State.reset with textLen := 200 }).errcode =
      some .capacityExceeded ∧
    (after .bitstr (withText textAB (withSel 0x001 State.reset))).errcode = some .invalidCharacter ∧
    (after (.select 0x58) State.reset).errcode = some .invalidLevel ∧
    (after .build (withSel 0x001 State.reset)).errcode = some .tableInconsistency ∧
    (after (.gflog 0) State.reset).errcode = some .illegalOperand ∧
    (after .fmt State.reset).errcode = some .sequenceError ∧
    (after .fmt State.reset).err = true := by decide +kernel

theorem witness_CommandsKeepOtherState :
    (∀ b ∈ writtenBuffers .bitstr, b.holds 0x23F = true) ∧
    (∀ b ∈ writtenBuffers .bitstr, b.holds 0x240 = false) ∧
    (∀ b ∈ writtenBuffers (.encode 0x4C), b.holds 0x17F = false) := by decide +kernel

theorem witness_StepKeepsInvariant :
    State.Inv (State.reset.withFetchWord 32 0x00CA5301) ∧
    step (State.reset.withFetchWord 32 0x00CA5301) =
      .next (after (.gfmul 0x53 0xCA) (State.reset.withFetchWord 32 0x00CA5301)) := by
  constructor
  · constructor
    · decide +kernel
    · decide +kernel
    · intro f hf
      cases hf
      rfl
    · decide +kernel
    · decide +kernel
    · decide +kernel
    · intro f hf
      cases hf
      decide +kernel
    · decide +kernel
  · exact (show step (State.reset.withFetchWord 32 0x00CA5301) =
      exec (.gfmul 0x53 0xCA) (State.reset.withFetchWord 32 0x00CA5301) from rfl).trans (exec_after _ _)

theorem witness_BusErrorsChangeNothing :
    (16 ≠ 32 ∧ ¬ mappedOffset 0x050 ∧ ¬ mappedOffset 0x602) ∧ mappedOffset 0x9F0 ∧
    refusedWrite State.reset 0x000 ∧ refusedWrite (State.reset.accept 0) 0x100 ∧
    ¬ refusedWrite (State.reset.accept 0) 0x004 ∧ ¬ refusedWrite State.reset 0x470 :=
  ⟨by decide, by decide, by decide, by decide +kernel, by decide +kernel, by decide⟩

theorem witness_BusyReadsAreDraws :
    (State.reset.accept 0).inflight = some { word := 0, clean := false } ∧
    (mappedOffset 0x010 ∧ ¬ exactOffset 0x010) ∧ (mappedOffset 0x9F0 ∧ ¬ exactOffset 0x9F0) ∧
    mappedOffset 0x000 ∧ mappedOffset 0x004 ∧ mappedOffset 0x008 ∧ mappedOffset 0x00C :=
  ⟨by decide +kernel, by decide, by decide, by decide, by decide, by decide, by decide⟩

theorem witness_IdleRegisterReads : State.reset.inflight = none := rfl

theorem witness_IdleRegisterWrites : State.reset.inflight = none := rfl

theorem witness_BufferWriteReadsBack :
    State.reset.inflight = none ∧
    (∀ off ∈ [0x100, 0x17C, 0x200, 0x27C, 0x300, 0x344, 0x400, 0x470], writableOffset off ∧ 0x100 ≤ off) := by
  decide +kernel

theorem witness_CtrlWriteSetsRsClean :
    (1 : Word).getLsbD 1 = false ∧
    (State.reset.accept 0).inflight = some { word := 0, clean := false } := by decide +kernel

theorem witness_SoftResetClearsRegisters :
    (2 : Word).getLsbD 1 = true ∧ State.reset.inflight = none ∧
    (State.reset.accept 0x21).inflight = some { word := 0x21, clean := false } ∧
    decoded 0x21 = some .bitstr ∧ Buffer.data ∈ writtenBuffers .bitstr ∧
    Buffer.data.holds 0x200 = true ∧ Buffer.data.holds 0x23F = true ∧
    (∀ a ∈ [0x100, 0x17F, 0x1FF, 0x240, 0x27F, 0x300, 0x9F3], ∀ b ∈ writtenBuffers .bitstr,
      b.holds a = false) ∧
    (0x100 ≤ 0x100 ∧ 0x100 < 0x180) ∧ (0x100 ≤ 0x17F ∧ 0x17F < 0x180) := by decide +kernel

theorem witness_ResetValues :
    (mappedOffset 0x004 ∧ 0x000 < 0x004 ∧ 0x004 < 0x050) ∧
    (mappedOffset 0x04C ∧ 0x000 < 0x04C ∧ 0x04C < 0x050) := by decide

theorem witness_ReadsHaveNoSideEffects : State.reset.inflight = none := rfl

end Sys2Proof.Tests
end

namespace Sys2Proof.Machine

/-! ### The layout of the window -/

/-- No byte offset lies in two buffers (10_state section 3). -/
theorem Buffer.eq_of_holds {b c : Buffer} {a : Nat} (hb : b.holds a = true) (hc : c.holds a = true) : b = c := by
  rw [Buffer.holds, Bool.and_eq_true, decide_eq_true_eq, decide_eq_true_eq] at hb hc
  cases b <;> cases c <;>
    simp only [Buffer.start, Buffer.size, Config.textBytes, Config.dataBytes, Config.streamBytes, Config.rowCount,
      Buffer.cand.injEq, Fin.ext_iff, reduceCtorEq] at hb hc ⊢ <;>
    omega

theorem Buffer.mem_allBuffers (b : Buffer) : b ∈ allBuffers := by
  cases b with
  | cand m => revert m; decide
  | _ => decide

/-- The buffer found at a byte offset is the one that holds it (rule R83). -/
theorem bufferAt_eq_some_iff {a : Nat} {b : Buffer} : bufferAt a = some b ↔ b.holds a = true := by
  have found {c : Buffer} (h : bufferAt a = some c) : c.holds a = true := by
    simpa using List.find?_some h
  refine ⟨found, fun h => ?_⟩
  cases hf : bufferAt a with
  | none => exact absurd h (List.find?_eq_none.1 hf b b.mem_allBuffers)
  | some c => rw [Buffer.eq_of_holds h (found hf)]

theorem Buffer.holds_iff {b : Buffer} {a : Nat} :
    b.holds a = true ↔ b.start ≤ a ∧ a < b.start + b.size := by
  simp [Buffer.holds]

/-- Buffers begin and end at word boundaries (rule R80). -/
theorem Buffer.start_size_aligned (b : Buffer) : b.start % 4 = 0 ∧ b.size % 4 = 0 := by
  cases b with
  | cand m => exact ⟨show (0x600 + 0x80 * m.val) % 4 = 0 by omega, show 4 * Config.rowCount % 4 = 0 from rfl⟩
  | _ => decide

/-- A buffer holds all four bytes of a word, or none (rule R80). -/
theorem Buffer.holds_word {b : Buffer} {off x : Nat} (hb : b.holds off = true) (ho : off % 4 = 0)
    (h1 : off ≤ x) (h2 : x < off + 4) : b.holds x = true := by
  rw [Buffer.holds_iff] at hb ⊢
  obtain ⟨hs, hn⟩ := b.start_size_aligned
  omega

/-- A matrix buffer is 29 words (rule R38). -/
theorem Buffer.size_of_isMatrix {b : Buffer} (h : b.isMatrix = true) : b.size = 4 * Config.rowCount := by
  cases b <;> simp_all [Buffer.isMatrix, Buffer.size]

/-! ### Writes that keep memory in its canonical form -/

/-- A cell of a buffer that is no matrix holds any byte (rule R37). -/
theorem cellOk_of_holds {b : Buffer} {c : Host.Cell} (hb : b.holds c.1 = true) (hm : b.isMatrix = false) :
    cellOk c = true := by
  simp [cellOk, clipByte, bufferAt_eq_some_iff.2 hb, hm]

/-- A cell of a matrix buffer holds any byte, but a row's last byte has its top three bits 0 (rule R38). -/
theorem cellOk_of_clipped {b : Buffer} {c : Host.Cell} (hb : b.holds c.1 = true)
    (hv : c.1 % 4 = 3 → c.2 &&& 0x1F = c.2) : cellOk c = true := by
  simp only [cellOk, clipByte, bufferAt_eq_some_iff.2 hb, Option.isSome_some, Bool.true_and, beq_iff_eq]
  split
  · rename_i h
    exact (hv (by simp_all)).symm
  · rfl

theorem State.wf_writeBytes {s : State} {b : Buffer} {vs : List Byte} (hs : Memory.wf s.mem = true)
    (hm : b.isMatrix = false) (hlen : vs.length ≤ b.size) :
    Memory.wf (s.writeBytes b.start vs).mem = true := by
  refine Memory.wf_write _ _ _ hs fun c hc => cellOk_of_holds ?_ hm
  obtain ⟨h1, h2, -⟩ := mem_cellsAt hc
  exact Buffer.holds_iff.2 ⟨h1, by omega⟩

/-- Bits 31..29 of a row's word are 0 (rule R38). -/
theorem bytesOfRow_last_clipped (r : Row) : (bytesOfRow r).getD 3 0 &&& 0x1F = (bytesOfRow r).getD 3 0 := by
  apply BitVec.eq_of_getLsbD_eq
  intro i hi
  have hr : 5 ≤ i → r.getLsbD (24 + i) = false := fun h => BitVec.getLsbD_of_ge _ _ (by omega)
  interval_cases i <;> simp_all [bytesOfRow, bytesOfWord]

theorem State.wf_writeMatrix {s : State} {b : Buffer} {m : Matrix} (hs : Memory.wf s.mem = true)
    (hb : b.isMatrix = true) : Memory.wf (s.writeMatrix b m).mem = true := by
  refine Memory.wf_write _ _ _ hs fun c hc => ?_
  obtain ⟨h1, h2, h3⟩ := mem_cellsAt hc
  have hsize := Buffer.size_of_isMatrix hb
  have halign := b.start_size_aligned.1
  rw [length_flatMap_rows, ← hsize] at h2
  refine cellOk_of_clipped (Buffer.holds_iff.2 ⟨h1, h2⟩) fun hlast => ?_
  have hc2 : c.2 = (bytesOfRow (Matrix.row m ((c.1 - b.start) / 4))).getD 3 0 := by
    rw [← getD_flatMap_rows (Matrix.row m) Config.rowCount _ 3 (by omega) (by omega),
      show 4 * ((c.1 - b.start) / 4) + 3 = c.1 - b.start by omega, List.getD_eq_getElem?_getD, h3,
      Option.getD_some]
  rw [hc2, bytesOfRow_last_clipped]

theorem State.wf_writeCandidates {s : State} {b : Matrix} {v : Version} (hs : Memory.wf s.mem = true) :
    Memory.wf (s.writeCandidates b v).mem = true := by
  unfold State.writeCandidates
  generalize List.finRange 8 = ms
  induction ms generalizing s with
  | nil => exact hs
  | cons m ms ih => exact ih (State.wf_writeMatrix hs rfl)

theorem State.wf_writeBufferWord {s : State} {b : Buffer} {off : Nat} {v : Word} (hs : Memory.wf s.mem = true)
    (hb : b.holds off = true) (ho : off % 4 = 0) : Memory.wf (s.writeBufferWord b off v).mem = true := by
  refine Memory.wf_write _ _ _ hs fun c hc => ?_
  obtain ⟨h1, h2, h3⟩ := mem_cellsAt hc
  rw [bytesOfWord_length] at h2
  have hin : b.holds c.1 = true := Buffer.holds_word hb ho h1 h2
  cases hm : b.isMatrix with
  | false => exact cellOk_of_holds hin hm
  | true =>
    refine cellOk_of_clipped hin fun hlast => ?_
    rw [hm, if_pos rfl, show c.1 - off = 3 by omega] at h3
    have hc2 : c.2 = (v &&& 0x1FFFFFFF#32).extractLsb' 24 8 := (Option.some.inj h3).symm
    rw [hc2]
    apply BitVec.eq_of_getLsbD_eq
    intro i hi
    interval_cases i <;> simp

/-! ### The lengths of the blocks the commands write -/

@[simp] theorem length_packBits (s : List Bool) (n : Nat) : (packBits s n).length = n := by
  simp [packBits]

theorem dataCodewords_le (v : Version) (l : Level) : dataCodewords v l ≤ Buffer.data.size := by
  cases v <;> cases l <;> decide

@[simp] theorem length_scaledGenerator (g : List Nat) (lead : Byte) (clean : Bool) :
    (scaledGenerator g lead clean).length = g.length := by
  unfold scaledGenerator
  split_ifs <;> simp [zeroBytes]

@[simp] theorem length_rsStep (g : List Nat) (clean : Bool) (rem : List Byte) :
    (rsStep g clean rem).length = max rem.length g.length - 1 := by
  simp [rsStep, zeroBytes]

theorem length_rsSteps_le (g : List Nat) (clean : Bool) (k : Nat) (rem : List Byte) :
    (rsSteps g clean k rem).length ≤ max rem.length g.length := by
  induction k generalizing rem with
  | zero => exact Nat.le_max_left _ _
  | succ k ih =>
    have := ih (rsStep g clean rem)
    rw [length_rsStep] at this
    rw [rsSteps]
    omega

/-- A generator of degree E has E + 1 coefficients (rule R65). -/
theorem length_genPoly {e : Nat} (he : errorCountOk e = true) : (genPoly e).length = e + 1 := by
  have hall : ∀ e ∈ Config.eSet, (genPoly e).length = e + 1 := by decide
  exact hall e (List.contains_iff_mem.1 he)

theorem errorCount_le {e : Nat} (he : errorCountOk e = true) : e ≤ 44 := by
  have hall : ∀ e ∈ Config.eSet, e ≤ 44 := by decide
  exact hall e (List.contains_iff_mem.1 he)

/-- No remainder is longer than its message or its generator (rule R151). -/
theorem length_rsDiv_le (msg : List Byte) (e : Nat) (clean : Bool) :
    (rsDiv msg e clean).length ≤ max msg.length (genPoly e).length :=
  length_rsSteps_le _ _ _ _

/-- The error blocks of a symbol fit ECC (rules R37, R206). -/
theorem length_errorBlocks_flatten_le (v : Version) (l : Level) (clean : Bool) (d : List Byte) :
    (errorBlocks v l clean d).flatten.length ≤ Buffer.ecc.size := by
  have hblock : ∀ n ∈ (errorBlocks v l clean d).map List.length,
      n ≤ max (blockData v l) (genPoly (blockErrors v l)).length := by
    simp only [errorBlocks, dataBlocks, List.map_map, List.mem_map, forall_exists_index, and_imp,
      forall_apply_eq_imp_iff₂, Function.comp_apply]
    intro b _
    have := length_rsDiv_le ((d.drop (b * blockData v l)).take (blockData v l)) (blockErrors v l) clean
    rw [List.length_take] at this
    omega
  have hsum := List.sum_le_card_nsmul _ _ hblock
  have hfit : blocks v l * max (blockData v l) (genPoly (blockErrors v l)).length ≤ Buffer.ecc.size := by
    cases v <;> cases l <;> decide
  rw [List.length_flatten]
  simp only [List.length_map, errorBlocks, dataBlocks, List.length_range, smul_eq_mul] at hsum ⊢
  omega

/-! ### What the invariant depends on -/

/-- The registers of the command cycle the invariant ties together (rules R25, R26, R40). -/
def State.cycle (s : State) : Byte × Word × Option InFlight × Bool × Bool × Option FaultCode × Bool :=
  (s.lastOp, s.cmd, s.inflight, s.done, s.err, s.errcode, s.outValid)

/-- A change outside the command cycle keeps the invariant when it keeps memory canonical and leaves no valid
winner without a version. -/
theorem State.Inv.of_cycle_eq {s t : State} (h : s.Inv) (hc : t.cycle = s.cycle)
    (hm : Memory.wf t.mem = true) (hw : t.winnerValid = true → t.sel.version ≠ none) : t.Inv := by
  simp only [State.cycle, Prod.mk.injEq] at hc
  obtain ⟨hlast, hcmd, hfl, hdone, herr, hcode, hout⟩ := hc
  constructor
  case memory => exact hm
  case winner => exact hw
  all_goals simp only [State.busy, hlast, hcmd, hfl, hdone, herr, hcode, hout]
  case lastOp => exact h.lastOp
  case inflightWord => exact h.inflightWord
  case oneOutcome => exact h.oneOutcome
  case errcode => exact h.errcode
  case busyOutput => exact h.busyOutput
  case faultOutput => exact h.faultOutput

/-- The invariant does not see the host agent, the latency, the draws or the answer. -/
theorem State.Inv.of_host_fields {s : State} (h : s.Inv) (latency draws : Nat) (bus : List BusAccess)
    (answer : Option BusAnswer) :
    State.Inv { s with latency := latency, draws := draws, bus := bus, answer := answer } :=
  h.of_cycle_eq rfl h.memory h.winner

theorem State.Inv.reply {s : State} (h : s.Inv) (a : BusAnswer) : (s.reply a).Inv :=
  h.of_cycle_eq rfl h.memory h.winner

/-- The invariant holds after power-on reset (rules R42, R331). -/
theorem State.inv_reset : State.reset.Inv where
  memory := Memory.wf_nil
  lastOp := by decide
  inflightWord := nofun
  oneOutcome := by decide
  errcode := by decide
  winner := nofun
  busyOutput := nofun
  faultOutput := nofun

/-! ### The host's writes keep the invariant -/

/-- A soft reset leaves the registers of the power-on reset and canonical memory (rule R332). -/
theorem State.Inv.softReset {s : State} (h : s.Inv) : s.softReset.Inv :=
  State.inv_reset.of_cycle_eq rfl (s.wf_unspecifyAll s.abandoned h.memory) nofun

/-- Acceptance clears DONE, ERR and ERRCODE, and OUT_VALID for a pipeline command (rule R104). -/
theorem State.Inv.issue {s : State} (h : s.Inv) (w : Word) : (s.issue w).Inv where
  memory := h.memory
  lastOp := rfl
  inflightWord := by
    rintro f hf
    cases hf
    rfl
  oneOutcome := by simp
  errcode := by simp
  winner := h.winner
  busyOutput := by
    rintro f hf hp
    cases hf
    simp_all
  faultOutput := by simp

/-- The map names a buffer only where it lies, at a word's offset (rules R80, R83). -/
theorem locate_word {off : Nat} {b : Buffer} (h : locate off = some (.word b)) :
    b.holds off = true ∧ off % 4 = 0 := by
  unfold locate at h
  obtain ⟨halign, h⟩ := (ite_eq_iff.1 h).resolve_left nofun
  iterate 13 replace h := ((ite_eq_iff.1 h).resolve_left nofun).2
  obtain ⟨c, hc, hcb⟩ := Option.map_eq_some_iff.1 h
  cases hcb
  exact ⟨bufferAt_eq_some_iff.1 hc, by simpa using halign⟩

theorem State.Inv.writeCtrl {s : State} (h : s.Inv) (v : Word) : (s.writeCtrl v).Inv := by
  unfold State.writeCtrl
  split
  · exact h.softReset
  · exact h.of_cycle_eq rfl h.memory h.winner

/-- A performed write keeps the invariant, whatever it is of. -/
theorem State.Inv.performWrite {s : State} (h : s.Inv) (v : Word) {off : Nat} {loc : Location}
    (hl : locate off = some loc) : (s.performWrite off v loc).Inv := by
  cases loc with
  | ctrl => exact h.writeCtrl v
  | cmd => exact h.issue v
  | sel => exact h.of_cycle_eq rfl h.memory nofun
  | textLen => exact h.of_cycle_eq rfl h.memory h.winner
  | streamLen => exact h.of_cycle_eq rfl h.memory h.winner
  | word b =>
    obtain ⟨hb, halign⟩ := locate_word hl
    exact h.of_cycle_eq rfl (State.wf_writeBufferWord h.memory hb halign) h.winner
  | id => exact h
  | status => exact h
  | result => exact h
  | winner => exact h
  | score m => exact h
  | format => exact h
  | info => exact h
  | pathLen => exact h

theorem State.Inv.perform {s : State} (h : s.Inv) (a : BusAccess) : (s.perform a).Inv := by
  cases a with
  | read width off =>
    rcases s.hostRead_cases width off with ⟨-, heq⟩ | ⟨loc, -, -, -, -, heq⟩ | ⟨loc, -, -, -, heq⟩ <;>
      rw [State.perform, heq]
    · exact h.reply _
    · exact h.of_host_fields _ _ _ _
    · exact h.reply _
  | write width off v =>
    rcases s.hostWrite_cases width off v with ⟨-, heq⟩ | ⟨loc, -, hl, -, heq⟩ <;> rw [State.perform, heq]
    · exact h.reply _
    · exact (h.performWrite v hl).reply _

theorem State.Inv.hostMove {s : State} (h : s.Inv) : s.hostMove.Inv := by
  unfold State.hostMove
  cases s.bus with
  | nil => exact h
  | cons a rest => exact (h.of_host_fields s.latency s.draws rest s.answer).perform a

/-! ### The completion step keeps the invariant -/

/-- The invariant holds and a command is in flight: the states a stage runs in. -/
structure State.BusyInv (s : State) : Prop where
  inv : s.Inv
  busy : s.busy = true

theorem State.BusyInv.of_cycle_eq {s t : State} (h : s.BusyInv) (hc : t.cycle = s.cycle)
    (hm : Memory.wf t.mem = true) (hw : t.winnerValid = true → t.sel.version ≠ none) : t.BusyInv where
  inv := h.inv.of_cycle_eq hc hm hw
  busy := by
    have hfl : t.inflight = s.inflight := congrArg (fun c => c.2.2.1) hc
    rw [State.busy, hfl]
    exact h.busy

/-- Completion meets the invariant, also when the command's last act was to set FORMAT and OUT_VALID (rules
R105, R270): no fault is recorded, so OUT_VALID is free. -/
theorem State.BusyInv.complete {s : State} (h : s.BusyInv) (f : BitVec 15) (o : Bool) :
    (State.complete { s with format := f, outValid := o }).Inv := by
  obtain ⟨⟨hmem, hlast, -, ⟨-, hbe, -⟩, hcode, hwin, -, -⟩, hbusy⟩ := h
  have herr : s.err = false := by simpa [hbusy] using hbe
  constructor
  case memory => exact hmem
  case lastOp => exact hlast
  case errcode => exact hcode
  case winner => exact hwin
  all_goals simp [State.busy, herr]

/-- Taking a fault meets the invariant: a pipeline command in flight had no valid output (rules R300, R302). -/
theorem State.BusyInv.takeFault {s : State} (h : s.BusyInv) (c : FaultCode) : (s.takeFault c).Inv := by
  obtain ⟨⟨hmem, hlast, hword, ⟨hbd, -, -⟩, -, hwin, hout, -⟩, hbusy⟩ := h
  obtain ⟨f, hf⟩ := Option.isSome_iff_exists.1 hbusy
  have hdone : s.done = false := by simpa [hbusy] using hbd
  constructor
  case memory => exact hmem
  case lastOp => exact hlast
  case winner => exact hwin
  case faultOutput => exact fun _ hp => hout f hf (by rwa [hword f hf])
  all_goals simp [State.busy, hdone]

/-- The state a stage ends in, with or without a fault, is such a state again. -/
def StageResult.KeepsBusyInv : StageResult → Prop
  | .ok s => s.BusyInv
  | .fault _ s => s.BusyInv

/-- The completion step after this stage meets the invariant. -/
def StageResult.EndsInInv (r : StageResult) : Prop := ∀ t, r.finish = .next t → t.Inv

theorem StageResult.KeepsBusyInv.endsInInv {r : StageResult} (h : r.KeepsBusyInv) : r.EndsInInv := by
  intro t ht
  rcases StageResult.finish_cases ht with ⟨u, rfl, rfl⟩ | ⟨c, u, rfl, rfl⟩
  · exact State.BusyInv.complete h u.format u.outValid
  · exact State.BusyInv.takeFault h c

theorem StageResult.KeepsBusyInv.andThen {r : StageResult} {f : State → StageResult} (h : r.KeepsBusyInv)
    (hf : ∀ t, t.BusyInv → (f t).KeepsBusyInv) : (r.andThen f).KeepsBusyInv := by
  cases r with
  | ok t => exact hf t h
  | fault c t => exact h

/-- A last stage need only end well itself: a fault before it is taken in the state the fault found. -/
theorem StageResult.KeepsBusyInv.andThen_endsInInv {r : StageResult} {f : State → StageResult}
    (h : r.KeepsBusyInv) (hf : ∀ t, t.BusyInv → (f t).EndsInInv) : (r.andThen f).EndsInInv := by
  cases r with
  | ok t => exact hf t h
  | fault c t => exact endsInInv (r := .fault c t) h

/-! ### The commands keep the invariant -/

section Stages

variable {s : State}

theorem gflogStage_keepsBusyInv (h : s.BusyInv) (a : Byte) : (gflogStage a s).KeepsBusyInv := by
  rcases gflogStage_cases a s with ⟨-, heq⟩ | ⟨-, heq⟩ <;> rw [heq]
  · exact h
  · exact h.of_cycle_eq rfl h.inv.memory h.inv.winner

theorem rsencStage_keepsBusyInv (h : s.BusyInv) (k e : Byte) : (rsencStage k e s).KeepsBusyInv := by
  rcases rsencStage_cases k e s with ⟨-, heq⟩ | ⟨hk, he, heq⟩ <;> rw [heq]
  · exact h
  · refine h.of_cycle_eq rfl (State.wf_writeBytes h.inv.memory rfl ?_) h.inv.winner
    have hlen := length_rsDiv_le (s.readBuffer .data k.toNat) e.toNat s.clean
    have hmsg : (s.readBuffer .data k.toNat).length = k.toNat := by simp [State.readBuffer, State.readBytes]
    have hk64 : k.toNat ≤ 64 := of_decide_eq_true (Bool.and_eq_true_iff.1 hk).2
    have he44 := errorCount_le he
    rw [hmsg, length_genPoly he] at hlen
    show _ ≤ 64
    omega

theorem selectStage_keepsBusyInv (h : s.BusyInv) (lc : Byte) : (selectStage lc s).KeepsBusyInv := by
  rcases selectStage_cases lc s with
    ⟨-, heq⟩ | ⟨l, -, -, heq⟩ | ⟨l, -, -, -, heq⟩ | ⟨l, v, -, -, -, heq⟩ <;> rw [heq]
  · exact h
  · exact h
  · exact h
  · exact h.of_cycle_eq rfl h.inv.memory nofun

theorem bitstrStage_keepsBusyInv (h : s.BusyInv) : (bitstrStage s).KeepsBusyInv := by
  rcases bitstrStage_cases s with
    ⟨-, heq⟩ | ⟨v, -, -, heq⟩ | ⟨v, -, -, -, heq⟩ | ⟨v, -, -, -, -, heq⟩ |
    ⟨v, bs, pre, -, -, -, -, heq⟩ <;> rw [heq]
  · exact h
  · exact h
  · exact h
  · exact h
  · refine h.of_cycle_eq rfl (State.wf_writeBytes h.inv.memory rfl ?_) nofun
    rw [length_packBits]
    exact dataCodewords_le v s.sel.level

theorem eccilStage_keepsBusyInv (h : s.BusyInv) : (eccilStage s).KeepsBusyInv := by
  rcases eccilStage_cases s with ⟨-, heq⟩ | ⟨v, -, heq⟩ <;> rw [heq]
  · exact h
  · refine h.of_cycle_eq rfl (State.wf_writeBytes (State.wf_writeBytes h.inv.memory rfl ?_) rfl ?_) nofun
    · rw [length_packBits]
      exact Nat.le_refl _
    · exact length_errorBlocks_flatten_le v _ _ _

theorem buildStage_keepsBusyInv (h : s.BusyInv) : (buildStage s).KeepsBusyInv := by
  rcases buildStage_cases s with ⟨-, heq⟩ | ⟨v, -, -, heq⟩ | ⟨v, -, -, heq⟩ <;> rw [heq]
  · exact h
  · exact h
  · exact h.of_cycle_eq rfl (State.wf_writeMatrix h.inv.memory rfl) nofun

theorem maskscStage_keepsBusyInv (h : s.BusyInv) : (maskscStage s).KeepsBusyInv := by
  rcases maskscStage_cases s with ⟨-, heq⟩ | ⟨v, hv, heq⟩ <;> rw [heq]
  · exact h
  · have hmem := State.wf_writeCandidates (b := s.readMatrix .base) (v := v) h.inv.memory
    rw [State.writeCandidates_eq]
    exact h.of_cycle_eq rfl hmem fun _ => by simp [hv]

/-- FMT sets OUT_VALID with the command still in flight, so only its completion meets the invariant. -/
theorem fmtStage_endsInInv (h : s.BusyInv) : (fmtStage s).EndsInInv := by
  rcases fmtStage_cases s with ⟨-, heq⟩ | ⟨v, -, -, heq⟩ <;> rw [heq]
  · exact StageResult.KeepsBusyInv.endsInInv (r := .fault _ s) h
  · rintro t ⟨⟩
    have hout (m : Matrix) : State.BusyInv (s.writeMatrix .out m) :=
      h.of_cycle_eq rfl (State.wf_writeMatrix h.inv.memory rfl) h.inv.winner
    exact (hout _).complete _ _

theorem encodeStage_endsInInv (h : s.BusyInv) (lc : Byte) : (encodeStage lc s).EndsInInv := by
  have hselect := selectStage_keepsBusyInv h lc
  have hbitstr := hselect.andThen fun _ => bitstrStage_keepsBusyInv
  have heccil := hbitstr.andThen fun _ => eccilStage_keepsBusyInv
  have hbuild := heccil.andThen fun _ => buildStage_keepsBusyInv
  have hmasksc := hbuild.andThen fun _ => maskscStage_keepsBusyInv
  exact hmasksc.andThen_endsInInv fun _ => fmtStage_endsInInv

theorem stageOf_endsInInv (h : s.BusyInv) (i : Instr) : (stageOf i s).EndsInInv := by
  have hresult (r : BitVec 16) : (StageResult.ok { s with result := r }).KeepsBusyInv :=
    h.of_cycle_eq rfl h.inv.memory h.inv.winner
  cases i with
  | nop => exact (hresult s.result).endsInInv
  | gfmul a b => exact (hresult _).endsInInv
  | gflog a => exact (gflogStage_keepsBusyInv h a).endsInInv
  | gfexp e => exact (hresult _).endsInInv
  | rsenc k e => exact (rsencStage_keepsBusyInv h k e).endsInInv
  | select lc => exact (selectStage_keepsBusyInv h lc).endsInInv
  | bitstr => exact (bitstrStage_keepsBusyInv h).endsInInv
  | eccil => exact (eccilStage_keepsBusyInv h).endsInInv
  | build => exact (buildStage_keepsBusyInv h).endsInInv
  | masksc => exact (maskscStage_keepsBusyInv h).endsInInv
  | fmt => exact fmtStage_endsInInv h
  | encode lc => exact encodeStage_endsInInv h lc

end Stages

/-- Settles O49: every clause is about a fixed state whose memory lists nothing. -/
theorem invariantHoldsAtReset : Obligations.InvariantHoldsAtReset := State.inv_reset

/-- Settles O50, by the four things a step can be: a move of the host, with or without a command in flight, the
completion of a command, and the fault of an illegal word. -/
theorem stepKeepsInvariant : Obligations.StepKeepsInvariant := by
  intro s t h ht
  have hbusy {f : InFlight} (hf : s.inflight = some f) : s.BusyInv := ⟨h, by simp [State.busy, hf]⟩
  rcases step_cases s with
    ⟨-, heq⟩ | ⟨f, -, -, heq⟩ | ⟨f, i, hf, -, -, heq⟩ | ⟨f, e, hf, -, -, heq⟩ <;> rw [heq] at ht
  · cases ht
    exact h.hostMove
  · cases ht
    exact (h.of_host_fields (s.latency - 1) s.draws s.bus s.answer).hostMove
  · rw [exec_eq_finish] at ht
    exact stageOf_endsInInv (hbusy hf) i t ht
  · cases ht
    exact (hbusy hf).takeFault .illegalCommand

end Sys2Proof.Machine

namespace Sys2Proof

/-! ### The fields of an assembled word -/

/-- A of an assembled word (rules R100, R108). -/
theorem fieldA_assemble (opc a b : Byte) : CommandWord.fieldA (assemble opc a b) = a := by
  apply BitVec.eq_of_getLsbD_eq
  intro i hi
  simp [CommandWord.fieldA, assemble, hi, show 8 + i < 16 by omega, show 8 + i < 32 by omega]

/-- B of an assembled word (rules R100, R108). -/
theorem fieldB_assemble (opc a b : Byte) : CommandWord.fieldB (assemble opc a b) = b := by
  apply BitVec.eq_of_getLsbD_eq
  intro i hi
  have hopc : opc.getLsbD (16 + i) = false := BitVec.getLsbD_of_ge _ _ (by omega)
  have ha : a.getLsbD (16 + i - 8) = false := BitVec.getLsbD_of_ge _ _ (by omega)
  simp [CommandWord.fieldB, assemble, hi, hopc, ha, show 16 + i < 32 by omega]

/-- An assembled word is decoded by its fields alone (rules R103, R108). -/
theorem decode_assemble (opc a b : Byte) : decode (assemble opc a b) = decodeFields opc a b := by
  rw [decode, fieldC_assemble, opc_assemble, fieldA_assemble, fieldB_assemble, if_neg (by simp)]

/-- The decoder gives back every command from its word (rules R101, R102, R108). -/
theorem decode_encode (i : Instr) : decode (encode i) = .ok i := by
  cases i <;> rw [encode, decode_assemble] <;> rfl

namespace Machine

/-! ### Which agent a step is of -/

/-- With nothing in flight a step is the host's (rules R20, R85). -/
theorem step_idle {s : State} (h : s.inflight = none) : step s = .next s.hostMove := by
  rw [step, h]

/-- While latency is left a step is the host's too (rule R345). -/
theorem step_waiting {s : State} {f : InFlight} (h : s.inflight = some f) (hl : s.latency ≠ 0) :
    step s = .next s.hostMoveBusy := by
  rw [step, h]
  exact if_neg hl

/-- With no latency left a step is the command in flight (rules R86, R105). -/
theorem step_completing {s : State} {f : InFlight} {i : Instr} (h : s.inflight = some f) (hl : s.latency = 0)
    (hd : decode f.word = .ok i) : step s = exec i s := by
  rw [step, h]
  exact (if_pos hl).trans (by rw [runWord, hd])

theorem State.hostMove_nil {s : State} (h : s.bus = []) : s.hostMove = s := by
  rw [State.hostMove, h]

theorem State.hostMove_cons {s : State} {a : BusAccess} {rest : List BusAccess} (h : s.bus = a :: rest) :
    s.hostMove = State.perform { s with bus := rest } a := by
  rw [State.hostMove, h]

/-- The word placed is the one in flight (log entry 5). -/
theorem State.withFetchWord_inflight (s : State) (w : Word) :
    (s.withFetchWord 32 w.toNat).inflight = some { word := w, clean := s.rsClean } := by
  simp [State.withFetchWord, Nat.mod_eq_of_lt w.isLt]

/-- Settles O6: the agent follows from INFLIGHT and the latency, its move from the accesses left. -/
theorem stepRunsDecodedCommand : Obligations.StepRunsDecodedCommand := by
  refine ⟨?_, ?_, ?_, ?_, ?_, ?_⟩
  · intro s hi hb
    rw [step_idle hi, State.hostMove_nil hb]
  · intro s a rest hi hb
    rw [step_idle hi, State.hostMove_cons hb]
  · intro s f hf hl hb
    rw [step_waiting hf hl]
    exact congrArg Host.Outcome.next (State.hostMove_nil (s := { s with latency := s.latency - 1 }) hb)
  · intro s f a rest hf hl hb
    rw [step_waiting hf hl]
    exact congrArg Host.Outcome.next (State.hostMove_cons (s := { s with latency := s.latency - 1 }) hb)
  · intro s f i hf hl hd
    exact step_completing hf hl hd
  · intro s i
    exact step_completing (s.withFetchWord_inflight (encode i)) rfl (decode_encode i)

/-! ### The words the host reads -/

/-- A flag has bit 0 alone. -/
@[simp] theorem getElem_flagWord (b : Bool) (i : Nat) (hi : i < 32) : (flagWord b)[i] = (b && decide (i = 0)) := by
  cases b <;> simp [flagWord, BitVec.getElem_one]

/-- The bits of STATUS: four flags, ERRCODE from bit 8, LAST_OP from bit 16 (rule R25). -/
theorem getLsbD_statusWord (s : State) (i : Nat) (hi : i < 32) :
    s.statusWord.getLsbD i =
      (([s.busy, s.done, s.err, s.outValid] : List Bool).getD i false ||
        (decide (8 ≤ i) && (errcodeBits s.errcode).getLsbD (i - 8)) ||
        (decide (16 ≤ i) && s.lastOp.getLsbD (i - 16))) := by
  unfold State.statusWord
  interval_cases i <;> simp

/-- Settles O53: each field is its run of STATUS's bits. -/
theorem statusFields : Obligations.StatusFields := by
  intro s
  refine ⟨?_, ?_, ?_, ?_, ?_, ?_, ?_, ?_, ?_⟩
  · rw [getLsbD_statusWord s 0 (by omega)]; simp [State.busy]
  · rw [getLsbD_statusWord s 1 (by omega)]; simp
  · rw [getLsbD_statusWord s 2 (by omega)]; simp
  · rw [getLsbD_statusWord s 3 (by omega)]; simp
  all_goals
    apply BitVec.eq_of_getLsbD_eq
    intro i hi
    rw [BitVec.getLsbD_extractLsb', getLsbD_statusWord s _ (by omega)]
    interval_cases i <;> simp

/-- The three fields of SEL at their places, 0 elsewhere (rule R29). -/
theorem selWord_fields (x : Sel) :
    (selWord x).extractLsb' 0 2 = versionCode x.version ∧ (selWord x).getLsbD 4 = x.mode.code ∧
      (selWord x).extractLsb' 8 2 = x.level.code ∧ selWord x &&& 0x00000313#32 = selWord x := by
  obtain ⟨v, m, l⟩ := x
  rcases v with _ | _ | _ | _ <;> cases m <;> cases l <;> decide

/-- WINNER is MASK in its low byte and VALID in bit 8 (rule R30). -/
theorem toNat_winnerWord (s : State) :
    s.winnerWord.toNat = s.winnerMask.val + 256 * s.winnerValid.toNat := by
  have hall : ∀ (m : Fin 8) (b : Bool),
      (BitVec.ofNat 32 m.val ||| (flagWord b <<< 8)).toNat = m.val + 256 * b.toNat := by decide
  exact hall s.winnerMask s.winnerValid

/-- The four counts of INFO are packed in bytes of their own (rule R33). -/
theorem toNat_packed_counts (v : Version) (l : Level) :
    (BitVec.ofNat 32 (dataCodewords v l) ||| (BitVec.ofNat 32 (errorCodewords v l) <<< 8)
      ||| (BitVec.ofNat 32 (blocks v l) <<< 16) ||| (BitVec.ofNat 32 v.side <<< 24)).toNat =
      dataCodewords v l + 2 ^ 8 * errorCodewords v l + 2 ^ 16 * blocks v l + 2 ^ 24 * v.side := by
  cases v <;> cases l <;> decide

theorem toNat_infoWord (x : Sel) :
    (infoWord x).toNat = match x.version with
      | none => 0
      | some v => dataCodewords v x.level + 2 ^ 8 * errorCodewords v x.level +
          2 ^ 16 * blocks v x.level + 2 ^ 24 * v.side := by
  obtain ⟨v, m, l⟩ := x
  cases v with
  | none => rfl
  | some v => exact toNat_packed_counts v l

/-- The lengths of the three paths (rules R35, R75). -/
theorem pathLength_eq (v : Version) :
    pathLength v = match v with | .v1 => 208 | .v2 => 359 | .v3 => 567 := by
  cases v <;> decide +kernel

theorem toNat_pathLenWord (x : Sel) :
    (pathLenWord x).toNat =
      match x.version with | none => 0 | some .v1 => 208 | some .v2 => 359 | some .v3 => 567 := by
  obtain ⟨v, m, l⟩ := x
  rcases v with _ | _ | _ | _ <;> simp [pathLenWord, pathLength_eq]

theorem locate_score (m : Fin 8) : locate (0x020 + 4 * m.val) = some (.score m) := by
  revert m
  decide

/-- Settles O54: a read while idle gives the location's exact value, and the packed registers have their fields. -/
theorem idleRegisterReads : Obligations.IdleRegisterReads := by
  intro s hi
  have hread {off : Nat} {loc : Location} (hl : locate off = some loc) :
      s.hostRead 32 off = { s with answer := some (.data (s.valueAt off loc)) } := s.hostRead_idle off loc hi hl
  obtain ⟨hversion, hmode, hlevel, hrest⟩ := selWord_fields s.sel
  refine ⟨hread (loc := .id) rfl, hread (loc := .ctrl) rfl, hread (loc := .status) rfl, hread (loc := .cmd) rfl,
    ⟨_, hread (loc := .sel) rfl, ?_, ?_, ?_, hrest⟩, hread (loc := .result) rfl, hread (loc := .textLen) rfl,
    hread (loc := .format) rfl, hread (loc := .streamLen) rfl, fun m => hread (locate_score m),
    ⟨_, hread (loc := .winner) rfl, toNat_winnerWord s⟩, ⟨_, hread (loc := .info) rfl, toNat_infoWord s.sel⟩,
    ⟨_, hread (loc := .pathLen) rfl, toNat_pathLenWord s.sel⟩⟩
  · exact hversion.trans rfl
  · exact hmode.trans rfl
  · exact hlevel.trans rfl

/-! ### The host's writes while idle -/

/-- A write while idle of a writable location is performed (rules R308, R340). -/
theorem State.hostWrite_idle {s : State} {off : Nat} {loc : Location} (v : Word) (hi : s.inflight = none)
    (hl : locate off = some loc) (hw : loc.hostWritable = true) :
    s.hostWrite 32 off v = (s.performWrite off v loc).reply .accepted :=
  s.hostWrite_permitted off v loc hl ((s.writePermitted_idle loc hi).trans hw)

theorem versionCode_versionOfCode (c : BitVec 2) : versionCode (versionOfCode c) = c := by
  revert c
  decide

theorem code_levelOfCode (c : BitVec 2) : (levelOfCode c).code = c := by
  revert c
  decide

theorem code_modeOfCode (b : Bool) : (modeOfCode b).code = b := by
  cases b <;> rfl

/-- SEL reads back as it was written, without the bits that belong to no field (rule R29). -/
theorem selWord_selOfWord (w : Word) : selWord (selOfWord w) = w &&& 0x00000313#32 := by
  simp only [selWord, selOfWord, versionCode_versionOfCode, code_levelOfCode, code_modeOfCode]
  apply BitVec.eq_of_getLsbD_eq
  intro i hi
  interval_cases i <;> simp

/-- Settles O55: the three writes are performed, and SEL's fields are those of the word. -/
theorem idleRegisterWrites : Obligations.IdleRegisterWrites := by
  intro s w hi
  exact ⟨State.hostWrite_idle (loc := .textLen) w hi rfl rfl, State.hostWrite_idle (loc := .streamLen) w hi rfl rfl,
    selOfWord w, State.hostWrite_idle (loc := .sel) w hi rfl rfl, selWord_selOfWord w⟩

/-- Settles O57: CTRL is writable busy or idle, and the write leaves INFLIGHT alone. -/
theorem ctrlWriteSetsRsClean : Obligations.CtrlWriteSetsRsClean := by
  intro s w hw
  have hwrite : s.hostWrite 32 0x004 w = { s with rsClean := w.getLsbD 0, answer := some .accepted } := by
    rw [s.hostWrite_permitted 0x004 w .ctrl rfl s.writePermitted_ctrl, State.performWrite, State.writeCtrl,
      if_neg (ne_true_of_eq_false hw)]
    rfl
  refine ⟨hwrite, fun f hf => ?_⟩
  rw [hwrite]
  simp [State.clean, hf]

/-- Settles O59: the twenty registers one by one. -/
theorem resetValues : Obligations.ResetValues := by
  have hall : ∀ k < 20, 0 < k → (State.reset.hostRead 32 (4 * k)).answer = some (.data 0) := by decide
  refine ⟨rfl, rfl, rfl, ?_⟩
  rintro off ⟨halign, -⟩ hpos hlt
  rw [show off = 4 * (off / 4) by omega]
  exact hall _ (by omega) (by omega)

/-! ### A word written to a buffer -/

/-- The map names a buffer at each of its word offsets (rule R80). -/
theorem locate_of_holds {off : Nat} {b : Buffer} (h : b.holds off = true) (halign : off % 4 = 0)
    (hlow : 0x100 ≤ off) : locate off = some (.word b) := by
  have hreg : ∀ n < 0x100, off ≠ n := by omega
  unfold locate
  rw [bufferAt_eq_some_iff.2 h]
  simp [halign, hreg, show ¬ off < 0x040 by omega]

/-- A writable offset from 0x100 on lies in a writable buffer; the rows of BASE begin at 0x400 (10_state
section 3). -/
theorem exists_buffer_of_writableOffset {off : Nat} (h : writableOffset off) (hlow : 0x100 ≤ off) :
    ∃ b : Buffer, b.hostWritable = true ∧ b.holds off = true ∧ (b.isMatrix = true ↔ 0x400 ≤ off) := by
  obtain ⟨-, hw⟩ := h
  rcases (by omega : (0x100 ≤ off ∧ off < 0x180) ∨ (0x200 ≤ off ∧ off < 0x240) ∨
    (0x240 ≤ off ∧ off < 0x280) ∨ (0x300 ≤ off ∧ off < 0x348) ∨ (0x400 ≤ off ∧ off < 0x474)) with
    h | h | h | h | h
  · exact ⟨.text, rfl, Buffer.holds_iff.2 h, by simp [Buffer.isMatrix]; omega⟩
  · exact ⟨.data, rfl, Buffer.holds_iff.2 h, by simp [Buffer.isMatrix]; omega⟩
  · exact ⟨.ecc, rfl, Buffer.holds_iff.2 h, by simp [Buffer.isMatrix]; omega⟩
  · exact ⟨.stream, rfl, Buffer.holds_iff.2 h, by simp [Buffer.isMatrix]; omega⟩
  · exact ⟨.base, rfl, Buffer.holds_iff.2 h, by simp [Buffer.isMatrix]; omega⟩

/-- The bytes of a word written are the word's, the lowest in bits 7..0 (rule R80). -/
theorem State.readByte_writeWord_same (s : State) (a : Nat) (w : Word) {i : Nat} (hi : i < 4) :
    (s.writeWord a w).readByte (a + i) = w.extractLsb' (8 * i) 8 := by
  rw [State.writeWord, State.readByte_writeBytes, bytesOfWord_length, if_pos (by omega), Nat.add_sub_cancel_left]
  interval_cases i <;> rfl

/-- Settles O56: the write is that of the word x, and a word's read, its bytes and the other bytes follow from the
laws of memory. -/
theorem bufferWriteReadsBack : Obligations.BufferWriteReadsBack := by
  intro s off w x hi hoff hlow hx
  obtain ⟨b, hbw, hb, hbm⟩ := exists_buffer_of_writableOffset hoff hlow
  have hl : locate off = some (.word b) := locate_of_holds hb hoff.1.1 hlow
  have hwrite : s.hostWrite 32 off w = (s.writeWord off x).reply .accepted := by
    rw [State.hostWrite_idle w hi hl hbw, State.performWrite, State.writeBufferWord, hx]
    exact congrArg (fun v => (s.writeWord off v).reply .accepted) (if_congr hbm rfl rfl)
  have hbyte (a : Nat) : ((s.writeWord off x).reply .accepted).readByte a = (s.writeWord off x).readByte a :=
    State.readByte_congr _ _ rfl rfl a
  refine ⟨_, hwrite, rfl, ?_, ?_, ?_⟩
  · rw [State.hostRead_idle ((s.writeWord off x).reply .accepted) off (.word b) hi hl]
    exact congrArg (fun v => State.reply _ (.data v)) (s.readWord_writeWord off x)
  · intro i h4
    rw [hbyte, s.readByte_writeWord_same off x h4]
  · intro a ha
    rw [hbyte, s.readByte_writeWord off x a (by omega)]

end Machine
end Sys2Proof

namespace Sys2Proof.Machine

/-! ### The capacity tables (rules R69, R70) -/

/-- A longer text takes at least as many bits (rules R183, R184). -/
theorem bitCount_monotone (mode : Mode) : Monotone (bitCount mode) := by
  refine monotone_nat_of_le_succ fun n => ?_
  cases mode with
  | numeric =>
    show 14 + 10 * (n / 3) + _ ≤ 14 + 10 * ((n + 1) / 3) + _
    split_ifs <;> omega
  | alphanumeric =>
    show 13 + 11 * (n / 2) + 6 * (n % 2) ≤ 13 + 11 * ((n + 1) / 2) + 6 * ((n + 1) % 2)
    omega

/-- A text as long as the capacity fits the data codewords, and one character more does not (rules R66, R69, R70). -/
theorem bitCount_capacity (mode : Mode) (v : Version) (l : Level) :
    bitCount mode (capacity mode v l) ≤ 8 * dataCodewords v l ∧
      8 * dataCodewords v l < bitCount mode (capacity mode v l + 1) := by
  cases mode <;> cases v <;> cases l <;> decide

/-- Settles O27: the bit count is monotone and passes the codewords' bits between the capacity and its successor. -/
theorem capacityIsLargestFit : Obligations.CapacityIsLargestFit := by
  intro mode v l n
  obtain ⟨hfit, hover⟩ := bitCount_capacity mode v l
  constructor
  · intro hn
    exact (bitCount_monotone mode hn).trans hfit
  · intro hn
    exact Nat.lt_succ_iff.1 ((bitCount_monotone mode).reflect_lt (hn.trans_lt hover))

/-! ### Reads have no side effect (rule R82) -/

/-- No location's value depends on the bus's answer. -/
@[simp] theorem State.valueAt_reply (s : State) (a : BusAnswer) (off : Nat) (loc : Location) :
    (s.reply a).valueAt off loc = s.valueAt off loc := by
  cases loc <;> rfl

/-- The bus keeps its latest answer alone (rule R16). -/
@[simp] theorem State.reply_reply (s : State) (a b : BusAnswer) : (s.reply a).reply b = s.reply b := rfl

/-- A read of another width or of an unmapped offset is refused in every state (rule R308). -/
theorem State.hostRead_refused (s : State) {width off : Nat} (h : width ≠ 32 ∨ locate off = none) :
    s.hostRead width off = s.reply .busError := by
  rcases s.hostRead_cases width off with ⟨-, heq⟩ | ⟨loc, hw, hl, -⟩ | ⟨loc, hw, hl, -⟩
  · exact heq
  all_goals simp [hw, hl] at h

theorem State.hostRead_hostRead_idle {s : State} (width off : Nat) (hi : s.inflight = none) :
    (s.hostRead width off).hostRead width off = s.hostRead width off := by
  rcases s.hostRead_cases width off with ⟨hbad, heq⟩ | ⟨loc, -, -, hbusy, -⟩ | ⟨loc, rfl, hl, -, heq⟩
  · rw [heq, State.hostRead_refused _ hbad, State.reply_reply]
  · simp [State.busy, hi] at hbusy
  · rw [heq, State.hostRead_idle (s.reply _) off loc hi hl, State.valueAt_reply, State.reply_reply]

/-- Settles O60, by the three things a read can do: a refusal, a draw or an exact value. -/
theorem readsHaveNoSideEffects : Obligations.ReadsHaveNoSideEffects := by
  intro s width off
  refine ⟨?_, State.hostRead_hostRead_idle width off⟩
  rcases s.hostRead_cases width off with ⟨-, heq⟩ | ⟨loc, -, -, -, -, heq⟩ | ⟨loc, -, -, -, heq⟩
  · exact ⟨s.draws, _, heq⟩
  · exact ⟨s.draws + 1, _, heq⟩
  · exact ⟨s.draws, _, heq⟩

/-! ### The tables EXP and LOG (rules R62, R63) -/

theorem length_expRom : expRom.length = 255 := by decide +kernel

theorem length_logRom : logRom.length = 256 := by decide +kernel

/-- EXP's sequence returns to its start after 255 steps. -/
theorem xtime_expOf_last : xtime (expOf 254) = expOf 0 := by decide +kernel

/-- Each entry of EXP is xtime of the one before it. -/
theorem expOf_succ {e : Nat} (he : e < 254) : expOf (e + 1) = xtime (expOf e) := by
  have hall : ∀ e < 254, expOf (e + 1) = xtime (expOf e) := by decide +kernel
  exact hall e he

/-- LOG of a nonzero element is an index of EXP, and the element stands there. -/
theorem expOf_logOf {a : Byte} (ha : a ≠ 0) : logOf a < 255 ∧ expOf (logOf a) = a := by
  have hall : ∀ a : Byte, a ≠ 0 → logOf a < 255 ∧ expOf (logOf a) = a := by decide +kernel
  exact hall a ha

/-- No entry of EXP is 0, and LOG gives back its index. -/
theorem logOf_expOf {e : Nat} (he : e < 255) : expOf e ≠ 0 ∧ logOf (expOf e) = e := by
  have hall : ∀ e < 255, expOf e ≠ 0 ∧ logOf (expOf e) = e := by decide +kernel
  exact hall e he

/-- Settles O14: the recurrence and the two directions of the inverse are read off the tables entry by entry. -/
theorem expAndLogAreInverse : Obligations.ExpAndLogAreInverse :=
  ⟨length_expRom, length_logRom, rfl, rfl, fun _ => expOf_succ, xtime_expOf_last, fun _ => expOf_logOf,
    fun _ => logOf_expOf⟩

end Sys2Proof.Machine

namespace Sys2Proof

/-! ### The words that are commands (rules R102, R103, R106) -/

/-- Settles O2: a word is assembled from the fields its decoder reads. -/
theorem decodeEncodeRoundTrip : Obligations.DecodeEncodeRoundTrip := decode_encode

/-- Whatever command the answer r holds, its word is assembled from the fields opc, a and b. -/
def AnswersRow (opc a b : Byte) (r : Except DecodeError Instr) : Prop :=
  ∀ i, r = .ok i → encode i = assemble opc a b

section Rows

variable {o opc a b : Byte} {i : Instr} {r r' : Except DecodeError Instr}

theorem answersRow_error (e : DecodeError) : AnswersRow opc a b (.error e) := nofun

theorem answersRow_ok (hi : encode i = assemble o a b) : opc = o → AnswersRow opc a b (.ok i) := by
  rintro rfl j ⟨⟩
  exact hi

theorem answersRow_decodeA (hi : encode i = assemble o a 0) (ho : opc = o) :
    AnswersRow opc a b (decodeA opc b i) := by
  unfold decodeA
  split_ifs with hb
  · exact answersRow_error _
  · exact answersRow_ok (by rw [hi, not_not.1 hb]) ho

theorem answersRow_decodeNone (hi : encode i = assemble o 0 0) (ho : opc = o) :
    AnswersRow opc a b (decodeNone opc a b i) := by
  unfold decodeNone
  split_ifs with ha hb
  · exact answersRow_error _
  · exact answersRow_error _
  · exact answersRow_ok (by rw [hi, not_not.1 ha, not_not.1 hb]) ho

theorem answersRow_ite (hr : opc = o → AnswersRow opc a b r) (hr' : AnswersRow opc a b r') :
    AnswersRow opc a b (if opc = o then r else r') := by
  split_ifs with ho
  · exact hr ho
  · exact hr'

/-- The opcode map answers with the command whose word the fields make, row by row (rule R102). -/
theorem answersRow_decodeFields : AnswersRow opc a b (decodeFields opc a b) := by
  unfold decodeFields
  exact
    answersRow_ite (answersRow_decodeNone rfl) <|
    answersRow_ite (answersRow_ok rfl) <|
    answersRow_ite (answersRow_decodeA rfl) <|
    answersRow_ite (answersRow_decodeA rfl) <|
    answersRow_ite (answersRow_ok rfl) <|
    answersRow_ite (answersRow_decodeA rfl) <|
    answersRow_ite (answersRow_decodeNone rfl) <|
    answersRow_ite (answersRow_decodeNone rfl) <|
    answersRow_ite (answersRow_decodeNone rfl) <|
    answersRow_ite (answersRow_decodeNone rfl) <|
    answersRow_ite (answersRow_decodeNone rfl) <|
    answersRow_ite (answersRow_decodeA rfl) <|
    answersRow_error _

end Rows

/-- A word whose C is 0 is assembled from its three other fields (rules R100, R108). -/
theorem assemble_fields {w : Word} (hC : CommandWord.fieldC w = 0) :
    assemble (CommandWord.opc w) (CommandWord.fieldA w) (CommandWord.fieldB w) = w := by
  apply BitVec.eq_of_getLsbD_eq
  intro i hi
  have hhigh : (CommandWord.fieldC w).getLsbD (i - 24) = false := by simp [hC]
  simp only [assemble, CommandWord.opc, CommandWord.fieldA, CommandWord.fieldB, CommandWord.fieldC] at hhigh ⊢
  interval_cases i <;> simp_all

/-- A command's word is the only one that decodes to it (rule R103). -/
theorem decode_eq_ok_iff {w : Word} {i : Instr} : decode w = .ok i ↔ encode i = w := by
  constructor
  · intro h
    obtain ⟨-, hC⟩ | ⟨hC, h⟩ := ite_eq_iff.1 h
    · cases hC
    · rw [answersRow_decodeFields i h, assemble_fields (not_not.1 hC)]
  · rintro rfl
    exact decode_encode i

/-- Settles O3: the decoder's rows are the encoder's, and a word with C = 0 is its fields. -/
theorem encodeDecodeInverse : Obligations.EncodeDecodeInverse := fun _ _ => decode_eq_ok_iff.1

/-- What rules R102, R103 and R106 ask of a word's fields. -/
def CommandWord.FieldsLegal (w : Word) : Prop :=
  fieldC w = 0 ∧ opc w ∈ definedOpcodes ∧ (opc w ∈ opcodesUsingA ∨ fieldA w = 0) ∧
    (opc w ∈ opcodesUsingB ∨ fieldB w = 0)

theorem fieldsLegal_encode (i : Instr) : CommandWord.FieldsLegal (encode i) := by
  cases i <;>
    simp [CommandWord.FieldsLegal, encode, fieldC_assemble, opc_assemble, fieldA_assemble, fieldB_assemble,
      CommandWord.definedOpcodes, CommandWord.opcodesUsingA, CommandWord.opcodesUsingB]

/-- A defined opcode names a command once the fields its row shows as 0 are 0 (rule R102). -/
theorem exists_decodeFields_eq_ok {opc a b : Byte} (hopc : opc ∈ CommandWord.definedOpcodes)
    (ha : opc ∈ CommandWord.opcodesUsingA ∨ a = 0) (hb : opc ∈ CommandWord.opcodesUsingB ∨ b = 0) :
    ∃ i, decodeFields opc a b = .ok i := by
  simp only [CommandWord.definedOpcodes, List.mem_cons, List.not_mem_nil, or_false] at hopc
  rcases hopc with rfl | rfl | rfl | rfl | rfl | rfl | rfl | rfl | rfl | rfl | rfl | rfl
  all_goals
    simp_all [CommandWord.opcodesUsingA, CommandWord.opcodesUsingB, decodeFields, decodeNone, decodeA]

theorem exists_decode_eq_ok_iff {w : Word} : (∃ i, decode w = .ok i) ↔ CommandWord.FieldsLegal w := by
  constructor
  · rintro ⟨i, h⟩
    rw [← decode_eq_ok_iff.1 h]
    exact fieldsLegal_encode i
  · rintro ⟨hC, hopc, hA, hB⟩
    rw [← assemble_fields hC, decode_assemble]
    exact exists_decodeFields_eq_ok hopc hA hB

/-- Settles O1: the legal words are the encoder's, so the round trip decodes them. -/
theorem decodeSampleWords : Obligations.DecodeSampleWords :=
  ⟨decode_encode (.gfmul 0x53 0xCA), decode_encode (.gflog 0x1D), decode_encode (.gfexp 254),
    decode_encode (.rsenc 19 7), decode_encode (.select 0x4C), decode_encode .bitstr, decode_encode .eccil,
    decode_encode .build, decode_encode .masksc, decode_encode .fmt, decode_encode (.encode 0x68),
    decode_encode .nop, rfl, rfl, rfl⟩

namespace Machine

/-! ### Illegal words in flight (rules R105, R106) -/

/-- With no latency left a word that is no command ends in IllegalCommand (rules R103, R105). -/
theorem step_illegal {s : State} {f : InFlight} (h : s.inflight = some f) (hl : s.latency = 0)
    (hd : ∀ i, decode f.word ≠ .ok i) : step s = .next (s.takeFault .illegalCommand) := by
  obtain ⟨hi, -⟩ | ⟨_, -, hl', -⟩ | ⟨g, i, hg, -, hi, -⟩ | ⟨_, _, -, -, -, heq⟩ := step_cases s
  · simp [h] at hi
  · exact absurd hl hl'
  · cases h.symm.trans hg
    exact absurd hi (hd i)
  · exact heq

/-- Settles O4: the legal words are the encoder's, and any other word takes the fault. -/
theorem illegalWordsFaultIllegalCommand : Obligations.IllegalWordsFaultIllegalCommand :=
  ⟨fun _ => exists_decode_eq_ok_iff, fun _ _ => step_illegal⟩

/-! ### Acceptance (rule R104) -/

/-- A write to CMD while idle is the acceptance of the word (rule R104). -/
theorem State.hostWrite_cmd_idle {s : State} (w : Word) (hi : s.inflight = none) :
    s.hostWrite 32 0x00C w = (s.issue w).reply .accepted :=
  State.hostWrite_idle (loc := .cmd) w hi rfl rfl

/-- CMD is not writable while BUSY (rules R104, R340). -/
theorem State.hostWrite_cmd_busy {s : State} (w : Word) (hb : s.busy = true) :
    s.hostWrite 32 0x00C w = s.reply .busError :=
  s.hostWrite_refused 0x00C w .cmd rfl (by simp [State.writePermitted, hb])

/-- A pipeline command's acceptance clears OUT_VALID, and no other word's does (rule R104). -/
theorem ite_isPipelineWord (w : Word) (b : Bool) :
    (if isPipelineWord w then false else b) =
      match decode w with
      | .ok i => if i.isPipeline then false else b
      | .error _ => b := by
  unfold isPipelineWord
  cases decode w <;> rfl

/-- Settles O5: the write is performed as an acceptance, or refused while BUSY. -/
theorem writeToCmdIssuesCommand : Obligations.WriteToCmdIssuesCommand := by
  constructor
  · intro s w hi
    refine ⟨(s.issue w).reply .accepted, State.hostWrite_cmd_idle w hi, ?_, rfl⟩
    exact congrArg (fun b => ({ (s.issue w).reply .accepted with outValid := b } : State))
      (ite_isPipelineWord w s.outValid)
  · intro s w hb
    exact State.hostWrite_cmd_busy w hb

/-! ### What no stage writes (rules R105, R280, R333) -/

/-- The state s with the buffers of t and t's registers that commands write. -/
def State.withOutputsOf (s t : State) : State :=
  { s with
    outValid := t.outValid
    result := t.result
    sel := t.sel
    winnerMask := t.winnerMask
    winnerValid := t.winnerValid
    score := t.score
    format := t.format
    streamLen := t.streamLen
    mem := t.mem }

/-- t differs from s in what commands write alone. -/
def State.ChangesOutputsOnly (s t : State) : Prop := t = s.withOutputsOf t

theorem State.ChangesOutputsOnly.trans {s t u : State} (h : s.ChangesOutputsOnly t) (h' : t.ChangesOutputsOnly u) :
    s.ChangesOutputsOnly u := by
  unfold State.ChangesOutputsOnly at *
  calc u = t.withOutputsOf u := h'
    _ = (s.withOutputsOf t).withOutputsOf u := by rw [← h]
    _ = s.withOutputsOf u := rfl

/-- DONE and the fault record are no outputs (rules R25, R105). -/
theorem State.ChangesOutputsOnly.status {s t : State} (h : s.ChangesOutputsOnly t) :
    t.done = s.done ∧ t.err = s.err ∧ t.errcode = s.errcode :=
  ⟨(congrArg State.done h :), (congrArg State.err h :), (congrArg State.errcode h :)⟩

/-- The state a stage ends in, with or without a fault. -/
def StageResult.state : StageResult → State
  | .ok s => s
  | .fault _ s => s

/-- Two stages in a row change outputs alone when each does. -/
theorem StageResult.changesOutputsOnly_andThen {s : State} {r : StageResult} {f : State → StageResult}
    (h : s.ChangesOutputsOnly r.state) (hf : ∀ t : State, t.ChangesOutputsOnly (f t).state) :
    s.ChangesOutputsOnly (r.andThen f).state := by
  cases r with
  | ok t => exact h.trans (hf t)
  | fault c t => exact h

theorem gflogStage_changesOutputsOnly (a : Byte) (s : State) :
    s.ChangesOutputsOnly (gflogStage a s).state := by
  rcases gflogStage_cases a s with ⟨-, heq⟩ | ⟨-, heq⟩ <;> rw [heq] <;> rfl

theorem rsencStage_changesOutputsOnly (k e : Byte) (s : State) :
    s.ChangesOutputsOnly (rsencStage k e s).state := by
  rcases rsencStage_cases k e s with ⟨-, heq⟩ | ⟨-, -, heq⟩ <;> rw [heq] <;> rfl

theorem selectStage_changesOutputsOnly (lc : Byte) (s : State) :
    s.ChangesOutputsOnly (selectStage lc s).state := by
  rcases selectStage_cases lc s with
    ⟨-, heq⟩ | ⟨l, -, -, heq⟩ | ⟨l, -, -, -, heq⟩ | ⟨l, v, -, -, -, heq⟩ <;> rw [heq] <;> rfl

theorem bitstrStage_changesOutputsOnly (s : State) : s.ChangesOutputsOnly (bitstrStage s).state := by
  rcases bitstrStage_cases s with
    ⟨-, heq⟩ | ⟨v, -, -, heq⟩ | ⟨v, -, -, -, heq⟩ | ⟨v, -, -, -, -, heq⟩ | ⟨v, bs, pre, -, -, -, -, heq⟩ <;>
    rw [heq] <;> rfl

theorem eccilStage_changesOutputsOnly (s : State) : s.ChangesOutputsOnly (eccilStage s).state := by
  rcases eccilStage_cases s with ⟨-, heq⟩ | ⟨v, -, heq⟩ <;> rw [heq] <;> rfl

theorem buildStage_changesOutputsOnly (s : State) : s.ChangesOutputsOnly (buildStage s).state := by
  rcases buildStage_cases s with ⟨-, heq⟩ | ⟨v, -, -, heq⟩ | ⟨v, -, -, heq⟩ <;> rw [heq] <;> rfl

theorem maskscStage_changesOutputsOnly (s : State) : s.ChangesOutputsOnly (maskscStage s).state := by
  rcases maskscStage_cases s with ⟨-, heq⟩ | ⟨v, -, heq⟩ <;> rw [heq]
  · rfl
  · rw [State.writeCandidates_eq]
    rfl

theorem fmtStage_changesOutputsOnly (s : State) : s.ChangesOutputsOnly (fmtStage s).state := by
  rcases fmtStage_cases s with ⟨-, heq⟩ | ⟨v, -, -, heq⟩ <;> rw [heq] <;> rfl

theorem encodeStage_changesOutputsOnly (lc : Byte) (s : State) :
    s.ChangesOutputsOnly (encodeStage lc s).state := by
  have hbitstr := StageResult.changesOutputsOnly_andThen (selectStage_changesOutputsOnly lc s)
    bitstrStage_changesOutputsOnly
  have heccil := StageResult.changesOutputsOnly_andThen hbitstr eccilStage_changesOutputsOnly
  have hbuild := StageResult.changesOutputsOnly_andThen heccil buildStage_changesOutputsOnly
  have hmasksc := StageResult.changesOutputsOnly_andThen hbuild maskscStage_changesOutputsOnly
  exact StageResult.changesOutputsOnly_andThen hmasksc fmtStage_changesOutputsOnly

/-- No command's stage touches the registers of the command cycle, CTRL, TEXT_LEN or the host's side. -/
theorem stageOf_changesOutputsOnly (i : Instr) (s : State) : s.ChangesOutputsOnly (stageOf i s).state := by
  cases i with
  | nop => rfl
  | gfmul a b => rfl
  | gflog a => exact gflogStage_changesOutputsOnly a s
  | gfexp e => rfl
  | rsenc k e => exact rsencStage_changesOutputsOnly k e s
  | select lc => exact selectStage_changesOutputsOnly lc s
  | bitstr => exact bitstrStage_changesOutputsOnly s
  | eccil => exact eccilStage_changesOutputsOnly s
  | build => exact buildStage_changesOutputsOnly s
  | masksc => exact maskscStage_changesOutputsOnly s
  | fmt => exact fmtStage_changesOutputsOnly s
  | encode lc => exact encodeStage_changesOutputsOnly lc s

/-- Settles O7: the stage keeps DONE and the fault record, and the completion step sets one or the other. -/
theorem commandsAlwaysComplete : Obligations.CommandsAlwaysComplete := by
  intro i s
  have h := (stageOf_changesOutputsOnly i s).status
  rw [exec_eq_finish]
  generalize stageOf i s = r at h ⊢
  obtain ⟨hdone, herr, hcode⟩ := h
  cases r with
  | ok u => exact ⟨u.complete, rfl, rfl, rfl, .inl ⟨rfl, herr, hcode⟩⟩
  | fault c u => exact ⟨u.takeFault c, rfl, rfl, rfl, .inr ⟨hdone, rfl, c, rfl⟩⟩

end Machine
end Sys2Proof

namespace Sys2Proof.Machine

/-! ### The powers of α (rules R62, R131) -/

/-- α^n, the table EXP continued with its period 255 (rule R62). -/
def alphaPow (n : Nat) : Byte := expOf (n % 255)

theorem alphaPow_ne_zero (n : Nat) : alphaPow n ≠ 0 := (logOf_expOf (Nat.mod_lt n (by decide))).1

theorem logOf_alphaPow (n : Nat) : logOf (alphaPow n) = n % 255 := (logOf_expOf (Nat.mod_lt n (by decide))).2

theorem alphaPow_logOf {a : Byte} (ha : a ≠ 0) : alphaPow (logOf a) = a := by
  obtain ⟨hlt, hexp⟩ := expOf_logOf ha
  rw [alphaPow, Nat.mod_eq_of_lt hlt, hexp]

/-- Every element is 0 or a power of α. -/
theorem eq_zero_or_alphaPow (a : Byte) : a = 0#8 ∨ ∃ n, a = alphaPow n :=
  or_iff_not_imp_left.2 fun ha => ⟨logOf a, (alphaPow_logOf ha).symm⟩

@[simp] theorem gfmul_zero_left (b : Byte) : gfmul 0#8 b = 0#8 := if_pos (.inl rfl)

@[simp] theorem gfmul_zero_right (a : Byte) : gfmul a 0#8 = 0#8 := if_pos (.inr rfl)

/-- The product by logarithms adds exponents (rule R131). -/
theorem gfmul_alphaPow (m n : Nat) : gfmul (alphaPow m) (alphaPow n) = alphaPow (m + n) := by
  rw [gfmul, if_neg (not_or.2 ⟨alphaPow_ne_zero m, alphaPow_ne_zero n⟩), logOf_alphaPow, logOf_alphaPow,
    ← Nat.add_mod, alphaPow]

/-- One step of xtime is one more factor α, also where the exponent wraps. -/
theorem xtime_alphaPow (n : Nat) : xtime (alphaPow n) = alphaPow (n + 1) := by
  unfold alphaPow
  obtain hlt | hlast : n % 255 < 254 ∨ n % 255 = 254 := by omega
  · rw [← expOf_succ hlt, show (n + 1) % 255 = n % 255 + 1 by omega]
  · rw [hlast, xtime_expOf_last, show (n + 1) % 255 = 0 by omega]

theorem xtime_iterate_alphaPow (n m : Nat) : xtime^[n] (alphaPow m) = alphaPow (m + n) := by
  induction n with
  | zero => rfl
  | succ n ih => rw [Function.iterate_succ_apply', ih, xtime_alphaPow, Nat.add_assoc]

/-- A factor α^n is n steps of xtime. -/
theorem gfmul_alphaPow_left (n : Nat) (b : Byte) : gfmul (alphaPow n) b = xtime^[n] b := by
  obtain rfl | ⟨m, rfl⟩ := eq_zero_or_alphaPow b
  · rw [gfmul_zero_right, Function.iterate_fixed (show xtime 0#8 = 0#8 from rfl)]
  · rw [gfmul_alphaPow, xtime_iterate_alphaPow, Nat.add_comm]

/-! ### The field laws (rule R134) -/

theorem gfmul_comm (a b : Byte) : gfmul a b = gfmul b a := by
  simp only [gfmul, Nat.add_comm, or_comm]

theorem gfmul_assoc (a b c : Byte) : gfmul (gfmul a b) c = gfmul a (gfmul b c) := by
  obtain rfl | ⟨m, rfl⟩ := eq_zero_or_alphaPow a
  · simp
  obtain rfl | ⟨n, rfl⟩ := eq_zero_or_alphaPow b
  · simp
  obtain rfl | ⟨k, rfl⟩ := eq_zero_or_alphaPow c
  · simp
  simp only [gfmul_alphaPow, Nat.add_assoc]

/-- The correction m, added for a carry of either summand, cancels when both carry. -/
theorem ite_xor_xor {w : Nat} (x y : Bool) (p q m : BitVec w) :
    (if (x ^^ y) = true then (p ^^^ q) ^^^ m else p ^^^ q) =
      (if x = true then p ^^^ m else p) ^^^ (if y = true then q ^^^ m else q) := by
  cases x <;> cases y
  · rfl
  · exact BitVec.xor_assoc p q m
  · show p ^^^ q ^^^ m = p ^^^ m ^^^ q
    ac_rfl
  · calc p ^^^ q = p ^^^ q ^^^ (m ^^^ m) := by simp
      _ = p ^^^ m ^^^ (q ^^^ m) := by ac_rfl

/-- xtime is additive: the shift is, and the carries of the two summands cancel. -/
theorem xtime_xor (a b : Byte) : xtime (a ^^^ b) = xtime a ^^^ xtime b := by
  unfold xtime
  rw [BitVec.getLsbD_xor, BitVec.shiftLeft_xor_distrib, ite_xor_xor]

theorem xtime_iterate_xor (n : Nat) (a b : Byte) : xtime^[n] (a ^^^ b) = xtime^[n] a ^^^ xtime^[n] b := by
  induction n with
  | zero => rfl
  | succ n ih => simp only [Function.iterate_succ_apply', ih, xtime_xor]

theorem gfmul_xor (a b c : Byte) : gfmul a (b ^^^ c) = gfmul a b ^^^ gfmul a c := by
  obtain rfl | ⟨n, rfl⟩ := eq_zero_or_alphaPow a
  · simp
  · simp only [gfmul_alphaPow_left, xtime_iterate_xor]

theorem gfmul_one_left (a : Byte) : gfmul 1 a = a := gfmul_alphaPow_left 0 a

/-- α^(255 − LOG a) is the inverse of a. -/
theorem gfmul_inverse {a : Byte} (ha : a ≠ 0) : gfmul a (alphaPow (255 - logOf a)) = 1 := by
  obtain ⟨hlt, -⟩ := expOf_logOf ha
  calc gfmul a (alphaPow (255 - logOf a))
      = gfmul (alphaPow (logOf a)) (alphaPow (255 - logOf a)) := by rw [alphaPow_logOf ha]
    _ = alphaPow 255 := by rw [gfmul_alphaPow, Nat.add_sub_cancel' hlt.le]
    _ = 1 := rfl

/-- Settles O16: nonzero elements are powers of α, whose exponents add, and each power acts as steps of xtime. -/
theorem fieldLaws : Obligations.FieldLaws :=
  ⟨gfmul_comm, gfmul_assoc, gfmul_xor, fun a => ⟨gfmul_one_left a, gfmul_zero_left a⟩, fun _ => gfmul_inverse⟩

/-! ### The product as a polynomial product (rule R135) -/

/-- Reduction is additive. -/
theorem reduceModulo_xor (p q : BitVec 16) (n : Nat) :
    reduceModulo (p ^^^ q) n = reduceModulo p n ^^^ reduceModulo q n := by
  induction n generalizing p q with
  | zero => rfl
  | succ n ih =>
    rw [reduceModulo, reduceModulo, reduceModulo, ← ih, BitVec.getLsbD_xor, ite_xor_xor]

theorem reduceModulo_zero (n : Nat) : reduceModulo 0#16 n = 0#16 := by
  induction n with
  | zero => rfl
  | succ n ih => simpa [reduceModulo] using ih

/-- xtime is the shift by one with the term x^8 removed. -/
theorem setWidth_xtime (a : Byte) :
    (xtime a).setWidth 16 = if a.getLsbD 7 then (a.setWidth 16 <<< 1) ^^^ 0x11D#16 else a.setWidth 16 <<< 1 := by
  have hall : ∀ a : Byte, (xtime a).setWidth 16 =
      if a.getLsbD 7 then (a.setWidth 16 <<< 1) ^^^ 0x11D#16 else a.setWidth 16 <<< 1 := by decide +kernel
  exact hall a

/-- a·x^i reduces to i steps of xtime, one at each term removed. -/
theorem reduceModulo_shift (a : Byte) {i n : Nat} (hi : i ≤ n) (hn : n ≤ 8) :
    reduceModulo (a.setWidth 16 <<< i) n = (xtime^[i] a).setWidth 16 := by
  induction n generalizing a i with
  | zero =>
    obtain rfl := Nat.le_zero.1 hi
    exact BitVec.shiftLeft_zero _
  | succ n ih =>
    rw [reduceModulo]
    obtain hlt | rfl := Nat.lt_or_eq_of_le hi
    · have hbit : (a.setWidth 16 <<< i).getLsbD (8 + n) = false := by
        simp [BitVec.getLsbD_of_ge a (8 + n - i) (by omega)]
      simpa [hbit] using ih a (Nat.le_of_lt_succ hlt) (by omega)
    · have hbit : (a.setWidth 16 <<< (n + 1)).getLsbD (8 + n) = a.getLsbD 7 := by
        simp [show 8 + n - (n + 1) = 7 by omega, show 8 + n < 16 by omega, show ¬ 8 + n < n + 1 by omega]
      rw [Function.iterate_succ_apply, ← ih (xtime a) le_rfl (by omega), setWidth_xtime, hbit, Nat.add_comm n 1,
        BitVec.shiftLeft_add]
      split_ifs
      · rw [BitVec.shiftLeft_xor_distrib]
      · rfl

/-- The lowest n bits of b, as an element. -/
def lowBits (b : Byte) (n : Nat) : Byte := (b.setWidth n).setWidth 8

theorem lowBits_succ (b : Byte) (n : Nat) :
    lowBits b (n + 1) = lowBits b n ^^^ if b.getLsbD n then 1#8 <<< n else 0#8 := by
  apply BitVec.eq_of_getLsbD_eq
  intro i hi
  obtain hlt | rfl | hgt := Nat.lt_trichotomy i n
  · split_ifs <;> simp [lowBits, hi, hlt, Nat.lt_succ_of_lt hlt]
  · split_ifs with hb <;> simp_all [lowBits]
  · have hbit : ¬ i < n + 1 ∧ ¬ i < n ∧ i - n ≠ 0 := by omega
    split_ifs <;> simp [lowBits, hi, hbit]

/-- The element x^i is α^i while the degree is below 8. -/
theorem alphaPow_eq_shift {i : Nat} (hi : i < 8) : alphaPow i = 1#8 <<< i := by
  have hall : ∀ i < 8, alphaPow i = 1#8 <<< i := by decide
  exact hall i hi

/-- Multiplication by x^i is the reduction of the shift by i. -/
theorem reduceModulo_shift_eq_gfmul (a : Byte) {i : Nat} (hi : i < 8) :
    reduceModulo (a.setWidth 16 <<< i) 8 = (gfmul a (1#8 <<< i)).setWidth 16 := by
  rw [reduceModulo_shift a hi.le le_rfl, ← alphaPow_eq_shift hi, gfmul_comm, gfmul_alphaPow_left]

/-- The product of the first n bits of b, reduced, is the product by logarithms. -/
theorem reduceModulo_carrylessProduct (a b : Byte) {n : Nat} (hn : n ≤ 8) :
    reduceModulo (carrylessProduct a b n) 8 = (gfmul a (lowBits b n)).setWidth 16 := by
  induction n with
  | zero =>
    have hlow : lowBits b 0 = 0#8 := congrArg (BitVec.setWidth 8) BitVec.of_length_zero
    rw [hlow, gfmul_zero_right]
    exact reduceModulo_zero 8
  | succ n ih =>
    rw [carrylessProduct, reduceModulo_xor, ih (by omega), lowBits_succ, gfmul_xor, BitVec.setWidth_xor]
    split_ifs
    · rw [reduceModulo_shift_eq_gfmul a hn]
    · rw [gfmul_zero_right]
      exact congrArg _ (reduceModulo_zero 8)

/-- Settles O15: both products are additive in b, and agree on b = x^i. -/
theorem productIsPolynomialProduct : Obligations.ProductIsPolynomialProduct := by
  intro a b
  rw [polynomialProduct, reduceModulo_carrylessProduct a b le_rfl]
  simp [lowBits]

/-! ### NOP, GFMUL, GFLOG and GFEXP (rules R130 to R133) -/

/-- NOP's word is the only one with opcode 0 that is a command (rule R102). -/
theorem eq_nop_of_opc_eq_zero {i : Instr} (h : CommandWord.opc (encode i) = 0) : i = .nop := by
  cases i with
  | nop => rfl
  | _ => simp [encode, opc_assemble] at h

/-- STATUS after a NOP that was accepted and has completed (rules R25, R130). -/
theorem statusWord_accept_nop (s : State) :
    (s.accept 0).complete.statusWord = if s.outValid then 0x0000000A#32 else 0x00000002#32 := by
  have hword : isPipelineWord 0 = false := rfl
  simp only [State.statusWord, State.busy, State.complete_inflight, State.complete_done, State.complete_err,
    State.complete_outValid, State.complete_errcode, State.complete_lastOp, State.accept_err, State.accept_errcode,
    State.accept_lastOp, State.accept_outValid, hword]
  cases s.outValid <;> rfl

/-- Settles O10: NOP's stage is the state itself, and STATUS is packed from what acceptance and completion leave. -/
theorem nopChangesStatusOnly : Obligations.NopChangesStatusOnly := by
  refine ⟨decode_encode .nop, ?_, fun s => rfl, fun s => ⟨_, rfl, statusWord_accept_nop s⟩⟩
  intro w i hopc hw hdec
  obtain rfl := decode_eq_ok_iff.1 hdec
  obtain rfl := eq_nop_of_opc_eq_zero hopc
  exact hw rfl

/-- Settles O11: the word is the encoder's, and the zero-extension goes into the cases of the product. -/
theorem gfmulWritesProduct : Obligations.GfmulWritesProduct := by
  intro a b s
  have hresult : (gfmul a b).setWidth 16 =
      if a = 0 ∨ b = 0 then 0 else (expOf ((logOf a + logOf b) % 255)).setWidth 16 :=
    apply_ite (BitVec.setWidth 16) (a = 0 ∨ b = 0) 0 _
  refine ⟨decode_encode (.gfmul a b), ?_⟩
  rw [← hresult]
  rfl

/-- The word of a command with operand A only (rule R108). -/
theorem assemble_zero_right (opc a : Byte) : assemble opc a 0 = opc.setWidth 32 ||| (a.setWidth 32 <<< 8) := by
  simp [assemble]

/-- Settles O12, by the two ways GFLOG's stage can end. -/
theorem gflogWritesLogarithm : Obligations.GflogWritesLogarithm := by
  intro a s
  refine ⟨decode_eq_ok_iff.2 (assemble_zero_right 0x02 a), ?_⟩
  obtain ⟨ha, heq⟩ | ⟨ha, heq⟩ := gflogStage_cases a s
  · exact ⟨fun hne => absurd ha hne, fun _ => congrArg StageResult.finish heq⟩
  · exact ⟨fun _ => ⟨Nat.le_of_lt_succ (expOf_logOf ha).1, congrArg StageResult.finish heq⟩,
      fun hzero => absurd hzero ha⟩

/-- Settles O13: the power is α^e, and LOG and EXP undo each other. -/
theorem gfexpWritesPower : Obligations.GfexpWritesPower := by
  intro e s
  refine ⟨decode_eq_ok_iff.2 (assemble_zero_right 0x03 e), alphaPow_ne_zero e.toNat, alphaPow_logOf, ?_, rfl⟩
  intro he
  exact (logOf_expOf (Nat.lt_succ_of_le he)).2

end Sys2Proof.Machine

namespace Sys2Proof.Machine

/-! ### The operands of RSENC (rule R150) -/

theorem messageLengthOk_iff {k : Nat} : messageLengthOk k = true ↔ 1 ≤ k ∧ k ≤ 64 := by
  rw [messageLengthOk, Bool.and_eq_true, decide_eq_true_eq, decide_eq_true_eq, Config.dataBytes]

theorem errorCountOk_iff {e : Nat} : errorCountOk e = true ↔ e ∈ Config.eSet := List.contains_iff_mem

/-! ### The length of the remainder (rules R151, R153) -/

/-- Each step drops one codeword, but the remainder never gets shorter than the generator's degree. -/
theorem length_rsSteps_succ (g : List Nat) (clean : Bool) (k : Nat) (rem : List Byte) :
    (rsSteps g clean (k + 1) rem).length = max (rem.length - (k + 1)) (g.length - 1) := by
  induction k generalizing rem with
  | zero =>
    rw [rsSteps, rsSteps, length_rsStep]
    omega
  | succ k ih =>
    rw [rsSteps, ih, length_rsStep]
    omega

/-- Settles O18: the steps use up the message, so what is left is the degree of the generator. -/
theorem remainderHasErrorCount : Obligations.RemainderHasErrorCount := by
  intro msg e clean hmsg he
  obtain ⟨c, cs, rfl⟩ := List.exists_cons_of_ne_nil hmsg
  rw [rsDiv, List.length_cons, length_rsSteps_succ, length_genPoly (errorCountOk_iff.2 he), List.length_cons,
    Nat.sub_self, Nat.zero_max, Nat.add_sub_cancel]

/-! ### RSENC (rule R150) -/

/-- Settles O17: by the two ways RSENC's stage can end; the bytes written are E by R153. -/
theorem rsencWritesErrorCodewords : Obligations.RsencWritesErrorCodewords := by
  intro k e s
  refine ⟨decode_encode (.rsenc k e), ?_⟩
  obtain ⟨hbad, heq⟩ | ⟨hk, he, heq⟩ := rsencStage_cases k e s
  · refine ⟨fun _ => congrArg StageResult.finish heq, fun hlow hhigh he => ?_⟩
    have hk := messageLengthOk_iff.2 ⟨hlow, hhigh⟩
    have he := errorCountOk_iff.2 he
    simp [hk, he] at hbad
  · obtain ⟨hlow, hhigh⟩ := messageLengthOk_iff.1 hk
    have he := errorCountOk_iff.1 he
    refine ⟨fun hbad => ?_, fun _ _ _ => ⟨_, congrArg StageResult.finish heq, rfl, fun a => ?_⟩⟩
    · obtain h | h | h := hbad
      · omega
      · omega
      · exact absurd he h
    · have hlen : (rsDiv (s.readBuffer .data k.toNat) e.toNat s.clean).length = e.toNat := by
        refine remainderHasErrorCount _ _ _ (List.ne_nil_of_length_pos ?_) he
        rwa [State.readBuffer, State.readBytes, List.length_map, List.length_range]
      have hread := s.readByte_writeBytes Buffer.ecc.start (rsDiv (s.readBuffer .data k.toNat) e.toNat s.clean) a
      rw [hlen] at hread
      exact hread

/-! ### The two modes (rules R152, R154) -/

theorem scaledGenerator_of_ne_zero (g : List Nat) {lead : Byte} (h : lead ≠ 0) (clean : Bool) :
    scaledGenerator g lead clean = g.map fun j => alphaPow (j + logOf lead) := if_neg h

/-- The modes differ on a zero leading term only. -/
theorem rsStep_eq_clean (g : List Nat) {rem : List Byte} (h : rem.headD 0 ≠ 0) :
    rsStep g false rem = rsStep g true rem := by
  have hscaled : scaledGenerator g (rem.headD 0) false = scaledGenerator g (rem.headD 0) true := by
    rw [scaledGenerator_of_ne_zero g h, scaledGenerator_of_ne_zero g h]
  rw [rsStep, hscaled, rsStep]

theorem rsSteps_eq_clean (g : List Nat) (k : Nat) (rem : List Byte)
    (h : ∀ j < k, (rsSteps g true j rem).headD 0 ≠ 0) : rsSteps g false k rem = rsSteps g true k rem := by
  induction k generalizing rem with
  | zero => rfl
  | succ k ih =>
    rw [rsSteps, rsSteps, rsStep_eq_clean g (rem := rem) (h 0 k.succ_pos)]
    exact ih _ fun j hj => h (j + 1) (Nat.succ_lt_succ hj)

/-- Settles O20: no step sees the one case in which the modes differ. -/
theorem modesAgreeWithoutZeroLead : Obligations.ModesAgreeWithoutZeroLead :=
  fun msg e _ h => rsSteps_eq_clean (genPoly e) msg.length msg h

/-! ### Values of polynomials at a power of α -/

theorem gfmul_one_right (a : Byte) : gfmul a 1 = a := by rw [gfmul_comm, gfmul_one_left]

theorem xor_gfmul (a b c : Byte) : gfmul (a ^^^ b) c = gfmul a c ^^^ gfmul b c := by
  rw [gfmul_comm, gfmul_xor, gfmul_comm c a, gfmul_comm c b]

theorem evalPolynomial_nil (x : Byte) : evalPolynomial [] x = 0#8 := rfl

theorem evalPolynomial_concat (cs : List Byte) (c x : Byte) :
    evalPolynomial (cs ++ [c]) x = gfmul (evalPolynomial cs x) x ^^^ c := by
  rw [evalPolynomial, List.foldl_append]
  rfl

theorem evalPolynomial_singleton (c x : Byte) : evalPolynomial [c] x = c := by
  simpa [evalPolynomial_nil] using evalPolynomial_concat [] c x

/-- n more coefficients at the end multiply by x^n the value of those before them. -/
theorem evalPolynomial_append (cs ds : List Byte) (i : Nat) :
    evalPolynomial (cs ++ ds) (alphaPow i) =
      gfmul (evalPolynomial cs (alphaPow i)) (alphaPow (i * ds.length)) ^^^ evalPolynomial ds (alphaPow i) := by
  induction ds using List.reverseRecOn with
  | nil =>
    have hone : alphaPow (i * 0) = 1 := rfl
    rw [List.append_nil, List.length_nil, hone, gfmul_one_right, evalPolynomial_nil, BitVec.xor_zero]
  | append_singleton ds d ih =>
    rw [← List.append_assoc, evalPolynomial_concat, ih, evalPolynomial_concat, xor_gfmul, gfmul_assoc,
      gfmul_alphaPow, List.length_append, List.length_singleton, Nat.mul_add_one, BitVec.xor_assoc]

theorem evalPolynomial_cons (c : Byte) (cs : List Byte) (i : Nat) :
    evalPolynomial (c :: cs) (alphaPow i) =
      gfmul c (alphaPow (i * cs.length)) ^^^ evalPolynomial cs (alphaPow i) := by
  have happ := evalPolynomial_append [c] cs i
  rwa [evalPolynomial_singleton] at happ

theorem evalPolynomial_zero_cons (cs : List Byte) (x : Byte) :
    evalPolynomial (0#8 :: cs) x = evalPolynomial cs x := by
  simp [evalPolynomial]

theorem evalPolynomial_zeroBytes (n : Nat) (x : Byte) : evalPolynomial (zeroBytes n) x = 0#8 := by
  induction n with
  | zero => rfl
  | succ n ih => exact (evalPolynomial_zero_cons (zeroBytes n) x).trans ih

/-- Padding at the tail by n zeros is multiplication by x^n. -/
theorem evalPolynomial_append_zeroBytes (cs : List Byte) (n i : Nat) :
    evalPolynomial (cs ++ zeroBytes n) (alphaPow i) =
      gfmul (evalPolynomial cs (alphaPow i)) (alphaPow (i * n)) := by
  rw [evalPolynomial_append, evalPolynomial_zeroBytes, BitVec.xor_zero, zeroBytes, List.length_replicate]

/-- The exclusive-or of coefficients is the sum of polynomials. -/
theorem evalPolynomial_zipWith_xor (cs ds : List Byte) (i : Nat) (h : cs.length = ds.length) :
    evalPolynomial (List.zipWith (· ^^^ ·) cs ds) (alphaPow i) =
      evalPolynomial cs (alphaPow i) ^^^ evalPolynomial ds (alphaPow i) := by
  induction cs generalizing ds with
  | nil =>
    obtain rfl := List.length_eq_zero_iff.1 h.symm
    exact BitVec.xor_zero.symm
  | cons c cs ih =>
    obtain ⟨d, ds, rfl⟩ := List.exists_cons_of_length_eq_add_one h.symm
    have hlen : cs.length = ds.length := Nat.succ.inj h
    rw [List.zipWith_cons_cons, evalPolynomial_cons, ih ds hlen, evalPolynomial_cons, evalPolynomial_cons,
      List.length_zipWith, hlen, Nat.min_self, xor_gfmul]
    ac_rfl

theorem evalPolynomial_map_gfmul (a : Byte) (cs : List Byte) (i : Nat) :
    evalPolynomial (cs.map (gfmul a)) (alphaPow i) = gfmul a (evalPolynomial cs (alphaPow i)) := by
  induction cs with
  | nil => exact (gfmul_zero_right a).symm
  | cons c cs ih =>
    rw [List.map_cons, evalPolynomial_cons, ih, evalPolynomial_cons, List.length_map, gfmul_xor, gfmul_assoc]

/-! ### The generators (rule R65) -/

/-- The value at α^i of a polynomial in exponent form, leading exponent first: a sum of powers of α. -/
def sumOfPowers (i : Nat) : List Nat → Byte
  | [] => 0
  | j :: js => alphaPow (j + i * js.length) ^^^ sumOfPowers i js

theorem evalPolynomial_map_alphaPow (js : List Nat) (i : Nat) :
    evalPolynomial (js.map alphaPow) (alphaPow i) = sumOfPowers i js := by
  induction js with
  | nil => rfl
  | cons j js ih => rw [List.map_cons, evalPolynomial_cons, List.length_map, gfmul_alphaPow, ih, sumOfPowers]

/-- α^0 .. α^(E−1) are roots of the generator. The table is checked in exponent form, which takes one lookup in EXP
for each term. -/
theorem evalPolynomial_genPoly {e i : Nat} (he : e ∈ Config.eSet) (hi : i < e) :
    evalPolynomial ((genPoly e).map alphaPow) (alphaPow i) = 0#8 := by
  have hall : ∀ e ∈ Config.eSet, ∀ i < e, sumOfPowers i (genPoly e) = 0#8 := by decide +kernel
  rw [evalPolynomial_map_alphaPow, hall e he i hi]

/-- The leading coefficient is α^0 = 1. -/
theorem genPoly_monic {e : Nat} (he : e ∈ Config.eSet) : ∃ js, genPoly e = 0 :: js := by
  have hall : ∀ e ∈ Config.eSet, genPoly e = 0 :: (genPoly e).tail := by decide
  exact ⟨_, hall e he⟩

/-! ### Clean mode is polynomial division (rule R154) -/

/-- In clean mode the generator is scaled by the leading term, 0 included. -/
theorem scaledGenerator_clean (g : List Nat) (lead : Byte) :
    scaledGenerator g lead true = (g.map alphaPow).map (gfmul lead) := by
  rw [List.map_map]
  obtain rfl | hlead := eq_or_ne lead 0
  · simp [scaledGenerator, zeroBytes, Function.comp_def]
  · rw [scaledGenerator_of_ne_zero g hlead]
    refine List.map_congr_left fun j _ => ?_
    calc alphaPow (j + logOf lead) = gfmul (alphaPow (logOf lead)) (alphaPow j) := by
          rw [gfmul_alphaPow, Nat.add_comm]
      _ = gfmul lead (alphaPow j) := by rw [alphaPow_logOf hlead]

theorem headD_scaledGenerator_clean (js : List Nat) (lead : Byte) :
    (scaledGenerator (0 :: js) lead true).headD 0 = lead := by
  rw [scaledGenerator_clean]
  exact gfmul_one_right lead

theorem headD_append_zeroBytes (cs : List Byte) (n : Nat) : (cs ++ zeroBytes n).headD 0 = cs.headD 0 := by
  cases cs with
  | nil => cases n <;> rfl
  | cons c cs => rfl

theorem headD_zipWith_xor (cs ds : List Byte) (h : cs.length = ds.length) :
    (List.zipWith (· ^^^ ·) cs ds).headD 0 = cs.headD 0 ^^^ ds.headD 0 := by
  cases cs with
  | nil =>
    obtain rfl := List.length_eq_zero_iff.1 h.symm
    rfl
  | cons c cs =>
    obtain ⟨d, ds, rfl⟩ := List.exists_cons_of_length_eq_add_one h.symm
    rfl

/-- A leading term 0 can be dropped. -/
theorem evalPolynomial_drop_one {cs : List Byte} (h : cs.headD 0 = 0#8) (x : Byte) :
    evalPolynomial (cs.drop 1) x = evalPolynomial cs x := by
  cases cs with
  | nil => rfl
  | cons c cs =>
    obtain rfl : c = 0#8 := h
    exact (evalPolynomial_zero_cons cs x).symm

/-- At a root of a monic generator a step only shifts: the multiple it adds vanishes there, and the term it drops
is 0. -/
theorem evalPolynomial_rsStep_clean {js : List Nat} {i : Nat}
    (hroot : evalPolynomial ((0 :: js).map alphaPow) (alphaPow i) = 0#8) (rem : List Byte) :
    evalPolynomial (rsStep (0 :: js) true rem) (alphaPow i) =
      gfmul (evalPolynomial rem (alphaPow i)) (alphaPow (i * ((0 :: js).length - rem.length))) := by
  generalize hs : scaledGenerator (0 :: js) (rem.headD 0) true = s
  have hhead : s.headD 0 = rem.headD 0 := hs ▸ headD_scaledGenerator_clean js _
  have hzero : evalPolynomial s (alphaPow i) = 0#8 := by
    rw [← hs, scaledGenerator_clean, evalPolynomial_map_gfmul, hroot, gfmul_zero_right]
  have hpad : (rem ++ zeroBytes (max rem.length s.length - rem.length)).length =
      (s ++ zeroBytes (max rem.length s.length - s.length)).length := by
    simp [zeroBytes]
  have hshift : max rem.length s.length - rem.length = (0 :: js).length - rem.length := by
    rw [← hs, length_scaledGenerator]
    omega
  simp only [rsStep, hs]
  rw [evalPolynomial_drop_one]
  · rw [evalPolynomial_zipWith_xor _ _ _ hpad, evalPolynomial_append_zeroBytes, evalPolynomial_append_zeroBytes,
      hzero, gfmul_zero_left, BitVec.xor_zero, hshift]
  · rw [headD_zipWith_xor _ _ hpad, headD_append_zeroBytes, headD_append_zeroBytes, hhead, BitVec.xor_self]

/-- At a root of a monic generator the remainder is the message, shifted by the codewords that were appended. -/
theorem evalPolynomial_rsSteps_clean {js : List Nat} {i : Nat}
    (hroot : evalPolynomial ((0 :: js).map alphaPow) (alphaPow i) = 0#8) (k : Nat) (rem : List Byte) :
    ∃ n, rem.length + n = (rsSteps (0 :: js) true k rem).length + k ∧
      evalPolynomial (rsSteps (0 :: js) true k rem) (alphaPow i) =
        gfmul (evalPolynomial rem (alphaPow i)) (alphaPow (i * n)) := by
  induction k generalizing rem with
  | zero => exact ⟨0, rfl, (gfmul_one_right _).symm⟩
  | succ k ih =>
    obtain ⟨n, hn, heval⟩ := ih (rsStep (0 :: js) true rem)
    rw [evalPolynomial_rsStep_clean hroot, gfmul_assoc, gfmul_alphaPow, ← Nat.mul_add] at heval
    refine ⟨(0 :: js).length - rem.length + n, ?_, heval⟩
    rw [length_rsStep, List.length_cons] at hn
    rw [rsSteps, List.length_cons]
    omega

/-- In clean mode the error codewords have at a root the value of the message shifted by E. -/
theorem evalPolynomial_rsDiv_clean {msg : List Byte} {e i : Nat} (hmsg : msg ≠ []) (he : e ∈ Config.eSet)
    (hi : i < e) :
    evalPolynomial (rsDiv msg e true) (alphaPow i) =
      gfmul (evalPolynomial msg (alphaPow i)) (alphaPow (i * e)) := by
  have hlen := remainderHasErrorCount msg e true hmsg he
  have hroot := evalPolynomial_genPoly he hi
  rw [rsDiv] at hlen ⊢
  obtain ⟨js, hjs⟩ := genPoly_monic he
  rw [hjs] at hlen hroot ⊢
  obtain ⟨n, hn, heval⟩ := evalPolynomial_rsSteps_clean hroot msg.length msg
  obtain rfl : n = e := by omega
  exact heval

/-- Settles O19: at a root the message shifted by E and its error codewords have one value, so their sum is 0. -/
theorem cleanCodewordsVanishAtRoots : Obligations.CleanCodewordsVanishAtRoots := by
  intro msg e i hmsg he hi
  have he44 := errorCount_le (errorCountOk_iff.2 he)
  have hexp : expOf i = alphaPow i := by rw [alphaPow, Nat.mod_eq_of_lt (by omega)]
  rw [hexp, evalPolynomial_append, remainderHasErrorCount msg e true hmsg he, evalPolynomial_rsDiv_clean hmsg he hi]
  exact BitVec.xor_self

end Sys2Proof.Machine

namespace Sys2Proof.Machine

/-! ### The length and the text SELECT and BITSTR read (rules R28, R172) -/

theorem State.textTooLong_iff {s : State} : s.textTooLong = true ↔ 128 < s.textLen.toNat := by
  rw [State.textTooLong, decide_eq_true_eq, Config.textBytes]

theorem State.not_textTooLong_iff {s : State} : s.textTooLong = false ↔ s.textLen.toNat ≤ 128 := by
  rw [State.textTooLong, decide_eq_false_iff_not, not_lt, Config.textBytes]

@[simp] theorem State.length_text (s : State) : s.text.length = s.textLen.toNat := by
  simp [State.text, State.readBuffer, State.readBytes]

/-- The text is TEXT_LEN and the bytes of TEXT below it (rule R28). -/
theorem State.text_congr {s s' : State} (hlen : s.textLen = s'.textLen)
    (htext : ∀ i < s.textLen.toNat, s.readByte (0x100 + i) = s'.readByte (0x100 + i)) : s.text = s'.text := by
  rw [State.text, State.text, ← hlen]
  exact List.map_congr_left fun i hi => htext i (List.mem_range.1 hi)

/-- Numeric mode is digits throughout (rule R173). -/
theorem modeOfText_eq_numeric_iff {s : State} : modeOfText s.text = .numeric ↔ ∀ i < s.textLen.toNat,
    0x30 ≤ (s.readByte (0x100 + i)).toNat ∧ (s.readByte (0x100 + i)).toNat ≤ 0x39 := by
  have hmode : modeOfText s.text = .numeric ↔ s.text.all isDigit = true := by
    rw [modeOfText]
    split <;> simp [*]
  rw [hmode, State.text, State.readBuffer, State.readBytes]
  simp [isDigit, Buffer.start]

/-- There are two modes, so a mode is told by whether it is Numeric (rule R4). -/
theorem Mode.eq_of_numeric_iff {m m' : Mode} (h : m = .numeric ↔ m' = .numeric) : m = m' := by
  cases m with
  | numeric => exact (h.1 rfl).symm
  | alphanumeric =>
    cases m' with
    | numeric => exact h.2 rfl
    | alphanumeric => rfl

/-! ### The smallest version (rule R170) -/

theorem smallestVersion_eq_none_iff {mode : Mode} {l : Level} {n : Nat} :
    smallestVersion mode l n = none ↔ ∀ v, capacity mode v l < n := by
  rw [smallestVersion, List.find?_eq_none]
  constructor
  · intro h v
    simpa using h v (by cases v <;> simp)
  · intro h v _
    simpa using h v

theorem smallestVersion_eq_some {mode : Mode} {l : Level} {n : Nat} {v : Version} (hfit : n ≤ capacity mode v l)
    (hsmaller : ∀ u : Version, u.num < v.num → capacity mode u l < n) : smallestVersion mode l n = some v := by
  cases v with
  | v1 => simp [smallestVersion, hfit]
  | v2 => simp [smallestVersion, hfit, hsmaller .v1 (by decide)]
  | v3 => simp [smallestVersion, hfit, hsmaller .v1 (by decide), hsmaller .v2 (by decide)]

theorem le_capacity_of_smallestVersion {mode : Mode} {l : Level} {n : Nat} {v : Version}
    (h : smallestVersion mode l n = some v) : n ≤ capacity mode v l := by
  simpa using List.find?_some h

/-! ### SELECT, case by case (rules R170, R171, R175) -/

section Select

variable {lc : Byte} {s : State} {l : Level} {v : Version}

theorem levelOfByte_eq_none (h : lc ∉ levelBytes) : levelOfByte lc = none := by
  simp only [levelBytes, List.mem_cons, List.not_mem_nil, or_false, not_or] at h
  simp only [levelOfByte, h, or_self, if_false]

theorem selectStage_badLevel (hl : levelOfByte lc = none) : selectStage lc s = .fault .invalidLevel s := by
  rw [selectStage, hl]

theorem selectStage_overflow (hl : levelOfByte lc = some l)
    (hover : 128 < s.textLen.toNat ∨ smallestVersion (modeOfText s.text) l s.textLen.toNat = none) :
    selectStage lc s = .fault .capacityExceeded s := by
  cases hlong : s.textTooLong with
  | true => simp [selectStage, hl, hlong]
  | false =>
    have hv := hover.resolve_left (State.not_textTooLong_iff.1 hlong).not_gt
    simp [selectStage, hl, hlong, hv]

theorem selectStage_version (hl : levelOfByte lc = some l) (hlen : s.textLen.toNat ≤ 128)
    (hv : smallestVersion (modeOfText s.text) l s.textLen.toNat = some v) :
    selectStage lc s =
      .ok { s with
            sel := { version := some v, mode := modeOfText s.text, level := l }
            winnerValid := false } := by
  simp [selectStage, hl, State.not_textTooLong_iff.2 hlen, hv]

/-- ENCODE begins with SELECT, so a bad level ends it (rule R280). -/
theorem encodeStage_badLevel (hl : levelOfByte lc = none) : encodeStage lc s = .fault .invalidLevel s := by
  simp [encodeStage, selectStage_badLevel hl]

end Select

/-- Level byte, TEXT_LEN and text decide how SELECT ends, and what it writes to SEL (rule R174). -/
theorem selectStage_decided (lc len : Byte) (text : List Byte) :
    (∃ c, ∀ s : State, s.textLen = len → s.text = text → selectStage lc s = .fault c s) ∨
    (∃ x, ∀ s : State, s.textLen = len → s.text = text →
      selectStage lc s = .ok { s with sel := x, winnerValid := false }) := by
  cases hl : levelOfByte lc with
  | none => exact .inl ⟨_, fun s _ _ => selectStage_badLevel hl⟩
  | some l =>
    cases hv : smallestVersion (modeOfText text) l len.toNat with
    | none =>
      refine .inl ⟨_, fun s hlen htext => selectStage_overflow hl (.inr ?_)⟩
      rwa [hlen, htext]
    | some v =>
      obtain hfew | hmany := le_or_gt len.toNat 128
      · refine .inr ⟨{ version := some v, mode := modeOfText text, level := l }, ?_⟩
        rintro s rfl rfl
        exact selectStage_version hl hfew hv
      · refine .inl ⟨_, fun s hlen _ => selectStage_overflow hl (.inl ?_)⟩
        rwa [hlen]

/-- Settles O21: the level bytes are a table, and any other byte faults in SELECT, which ENCODE begins with. -/
theorem levelBytesAreDecoded : Obligations.LevelBytesAreDecoded := by
  refine ⟨fun _ => rfl, rfl, rfl, rfl, rfl, fun lc s hlc => ?_⟩
  have hnone : levelOfByte lc = none := levelOfByte_eq_none hlc
  exact ⟨congrArg StageResult.finish (selectStage_badLevel hnone),
    congrArg StageResult.finish (encodeStage_badLevel hnone)⟩

/-- Settles O22: the mode is the text's, and the capacities decide the search for a version. -/
theorem selectChoosesSmallestVersion : Obligations.SelectChoosesSmallestVersion := by
  intro lc s mode hmode
  obtain rfl : modeOfText s.text = mode := Mode.eq_of_numeric_iff (modeOfText_eq_numeric_iff.trans hmode.symm)
  refine ⟨decode_eq_ok_iff.2 (assemble_zero_right 0x20 lc), ?_, ?_, ?_⟩
  · intro hlevel
    exact congrArg StageResult.finish (selectStage_badLevel hlevel)
  · intro l hlevel hover
    exact congrArg StageResult.finish
      (selectStage_overflow hlevel (hover.imp_right smallestVersion_eq_none_iff.2))
  · intro l v hlevel hlen hfit hsmaller
    exact congrArg StageResult.finish
      (selectStage_version hlevel hlen (smallestVersion_eq_some hfit hsmaller))

/-- Settles O23: what decides how SELECT ends is the same in both states. -/
theorem selectDependsOnTextAlone : Obligations.SelectDependsOnTextAlone := by
  intro lc s s' t t' hlen hbytes herr herr' ht ht'
  have htext := State.text_congr hlen hbytes
  rw [exec_eq_finish, stageOf] at ht ht'
  obtain ⟨c, hfault⟩ | ⟨x, hok⟩ := selectStage_decided lc s'.textLen s'.text
  · rw [hfault s hlen htext] at ht
    rw [hfault s' rfl rfl] at ht'
    cases ht
    cases ht'
    exact ⟨rfl, fun _ => rfl, nofun⟩
  · rw [hok s hlen htext] at ht
    rw [hok s' rfl rfl] at ht'
    cases ht
    cases ht'
    exact ⟨herr.trans herr'.symm, fun h => absurd h (by simp [herr]), fun _ => rfl⟩

/-! ### Bits of a number (rule R12) -/

@[simp] theorem length_bits (v w : Nat) : (bits v w).length = w := by
  induction w with
  | zero => rfl
  | succ w ih => rw [bits, List.length_cons, ih]

/-- Bit j of w bits, the first being the most significant. -/
theorem getElem?_bits (v : Nat) {w j : Nat} (hj : j < w) : (bits v w)[j]? = some (v.testBit (w - 1 - j)) := by
  induction w generalizing j with
  | zero => exact absurd hj j.not_lt_zero
  | succ w ih =>
    rw [bits]
    cases j with
    | zero => rfl
    | succ j =>
      rw [List.getElem?_cons_succ, ih (Nat.lt_of_succ_lt_succ hj), show w + 1 - 1 - (j + 1) = w - 1 - j by omega]

@[simp] theorem length_zeroBits (n : Nat) : (zeroBits n).length = n := List.length_replicate

/-! ### The number of header and data bits (rules R183, R184) -/

theorem length_numericBits (t : List Byte) : (numericBits t).length =
    10 * (t.length / 3) + (if t.length % 3 = 0 then 0 else if t.length % 3 = 1 then 4 else 7) := by
  induction t using numericBits.induct with
  | case1 => rfl
  | case2 a => simp [numericBits]
  | case3 a b => simp [numericBits]
  | case4 a b c rest ih =>
    rw [numericBits, List.length_append, length_bits, ih,
      show (a :: b :: c :: rest).length = rest.length + 3 from rfl, Nat.add_mod_right, Nat.add_div_right _ (by decide)]
    omega

theorem length_alnumBits (t : List Byte) : (alnumBits t).length = 11 * (t.length / 2) + 6 * (t.length % 2) := by
  induction t using alnumBits.induct with
  | case1 => rfl
  | case2 a => simp [alnumBits]
  | case3 a b rest ih =>
    rw [alnumBits, List.length_append, length_bits, ih, show (a :: b :: rest).length = rest.length + 2 from rfl]
    omega

/-- Settles O25: the indicators have fixed widths, and the groups of characters are counted by induction. -/
theorem bitCountByLength : Obligations.BitCountByLength := by
  intro mode t
  cases mode with
  | numeric =>
    simp only [header, List.length_append, length_bits, length_numericBits, bitCount]
    omega
  | alphanumeric =>
    simp only [header, List.length_append, length_bits, length_alnumBits, bitCount]
    omega

/-! ### The padded stream (rule R185) -/

@[simp] theorem length_padBytes (n k : Nat) : (padBytes n k).length = 8 * n := by
  induction n generalizing k with
  | zero => rfl
  | succ n ih =>
    rw [padBytes, List.length_append, length_bits, ih]
    omega

theorem toNat_padByte (k : Nat) : (padByte k).toNat = if k % 2 = 0 then 0xEC else 0x11 := by
  rw [padByte]
  split <;> rfl

/-- Bit j of pad byte i, counted from the pad byte that begins the run. -/
theorem getElem?_padBytes {n i j : Nat} (k : Nat) (hi : i < n) (hj : j < 8) :
    (padBytes n k)[8 * i + j]? = some ((padByte (k + i)).getLsbD (7 - j)) := by
  induction n generalizing i k with
  | zero => exact absurd hi i.not_lt_zero
  | succ n ih =>
    rw [padBytes, ← toNat_padByte]
    cases i with
    | zero =>
      rw [Nat.mul_zero, Nat.zero_add, List.getElem?_append_left (by rwa [length_bits]), getElem?_bits _ hj]
      rfl
    | succ i =>
      rw [List.getElem?_append_right (by rw [length_bits]; omega), length_bits,
        show 8 * (i + 1) + j - 8 = 8 * i + j by omega, ih (k + 1) (Nat.lt_of_succ_lt_succ hi),
        show k + 1 + i = k + (i + 1) by omega]

/-- The aligned length is a whole number of bytes between the unpadded and the required length. -/
theorem alignedLength_bounds {pre n : Nat} (h : pre ≤ 8 * n) :
    pre ≤ alignedLength pre (8 * n) ∧ alignedLength pre (8 * n) ≤ 8 * n ∧ alignedLength pre (8 * n) % 8 = 0 := by
  rw [alignedLength]
  omega

/-- Terminator and byte alignment add nothing but zero bits, up to the aligned length. -/
theorem byteAlign_terminator {s : List Bool} {n : Nat} (h : s.length ≤ 8 * n) :
    byteAlign (terminator (8 * n) s) = s ++ zeroBits (alignedLength s.length (8 * n) - s.length) := by
  rw [terminator, byteAlign, List.append_assoc, zeroBits, zeroBits, List.replicate_append_replicate, zeroBits,
    List.length_append, List.length_replicate, alignedLength]
  congr 2
  split <;> omega

/-- The padded stream in its three parts, m being where the pad bytes begin. -/
theorem dataStream_eq_some {t : List Byte} {mode : Mode} {v : Version} {l : Level} {m : Nat}
    (h : (header mode t).length ≤ 8 * dataCodewords v l)
    (hm : alignedLength (header mode t).length (8 * dataCodewords v l) = m) :
    dataStream t mode v l =
      some (header mode t ++ zeroBits (m - (header mode t).length) ++ padBytes (dataCodewords v l - m / 8) 0,
        (header mode t).length) := by
  subst hm
  obtain ⟨hpre, hreq, hmod⟩ := alignedLength_bounds h
  rw [dataStream]
  simp only [h.not_gt, if_false, padTo, byteAlign_terminator h, List.length_append, length_zeroBits]
  congr 4
  omega

theorem dataStream_eq_none_iff {t : List Byte} {mode : Mode} {v : Version} {l : Level} :
    dataStream t mode v l = none ↔ 8 * dataCodewords v l < (header mode t).length := by
  simp [dataStream]

/-- Settles O26: the stream is the header and data bits, zero bits up to the aligned length, and pad bytes. -/
theorem dataStreamFillsCodewords : Obligations.DataStreamFillsCodewords := by
  intro t mode v l
  refine ⟨dataStream_eq_none_iff.2, fun h => ⟨_, dataStream_eq_some h rfl, ?_⟩⟩
  obtain ⟨hpre, hreq, hmod⟩ := alignedLength_bounds h
  generalize alignedLength (header mode t).length (8 * dataCodewords v l) = m at hpre hreq hmod ⊢
  have hlen : (header mode t ++ zeroBits (m - (header mode t).length)).length = m := by
    rw [List.length_append, length_zeroBits, Nat.add_sub_cancel' hpre]
  refine ⟨?_, ?_, ?_, ?_⟩
  · rw [List.length_append, hlen, length_padBytes]
    omega
  · rw [List.append_assoc, List.take_left]
  · intro i hi him
    rw [List.getElem?_append_left (hlen.symm ▸ him), List.getElem?_append_right hi, zeroBits,
      List.getElem?_replicate_of_lt (by omega)]
  · intro k j hk hj
    rw [List.getElem?_append_right (by rw [hlen]; omega), hlen, show m + 8 * k + j - m = 8 * k + j by omega,
      getElem?_padBytes 0 (by omega) hj, Nat.zero_add]

/-! ### The data codewords (rules R180, R186) -/

/-- Bit j of a codeword, the first being the most significant. -/
theorem getLsbD_byteOfBits (s : List Bool) (i : Nat) {j : Nat} (hj : j < 8) :
    (byteOfBits s i).getLsbD (7 - j) = s.getD (8 * i + j) false := by
  rw [byteOfBits, BitVec.getLsbD_ofFnLE, dif_pos (by omega), show 7 - (7 - j) = j by omega]

/-- There is a first codeword (rule R66). -/
theorem dataCodewords_pos (v : Version) (l : Level) : 0 < dataCodewords v l := by
  cases v <;> cases l <;> decide

/-- The bytes read after n codewords were written. -/
theorem State.readByte_writeBytes_packBits (s : State) (bs : List Bool) (a n : Nat) :
    (∀ i < n, (s.writeBytes a (packBits bs n)).readByte (a + i) = byteOfBits bs i) ∧
      ∀ x, ¬ (a ≤ x ∧ x < a + n) → (s.writeBytes a (packBits bs n)).readByte x = s.readByte x := by
  constructor
  · intro i hi
    rw [State.readByte_writeBytes, length_packBits, if_pos (by omega), Nat.add_sub_cancel_left, packBits]
    simp [hi]
  · intro x hx
    rw [State.readByte_writeBytes, length_packBits, if_neg hx]

section Bitstr

variable {s : State} {v : Version}

theorem bitstrStage_noVersion (hv : s.sel.version = none) : bitstrStage s = .fault .sequenceError s := by
  rw [bitstrStage, hv]

theorem bitstrStage_tooLong (hv : s.sel.version = some v) (hlen : 128 < s.textLen.toNat) :
    bitstrStage s = .fault .capacityExceeded s := by
  simp [bitstrStage, hv, State.textTooLong_iff.2 hlen]

theorem bitstrStage_badCharacter (hv : s.sel.version = some v) (hlen : s.textLen.toNat ≤ 128)
    (hc : charsOk s.sel.mode (foldText s.sel.mode s.text) = false) :
    bitstrStage s = .fault .invalidCharacter s := by
  simp [bitstrStage, hv, State.not_textTooLong_iff.2 hlen, hc]

theorem bitstrStage_overflow (hv : s.sel.version = some v) (hlen : s.textLen.toNat ≤ 128)
    (hc : charsOk s.sel.mode (foldText s.sel.mode s.text) = true)
    (hd : dataStream (foldText s.sel.mode s.text) s.sel.mode v s.sel.level = none) :
    bitstrStage s = .fault .capacityExceeded s := by
  simp [bitstrStage, hv, State.not_textTooLong_iff.2 hlen, hc, hd]

theorem bitstrStage_fits {bs : List Bool} {pre : Nat} (hv : s.sel.version = some v) (hlen : s.textLen.toNat ≤ 128)
    (hc : charsOk s.sel.mode (foldText s.sel.mode s.text) = true)
    (hd : dataStream (foldText s.sel.mode s.text) s.sel.mode v s.sel.level = some (bs, pre)) :
    bitstrStage s =
      .ok { s.writeBytes Buffer.data.start (packBits bs (dataCodewords v s.sel.level)) with
            result := BitVec.ofNat 16 pre
            winnerValid := false } := by
  simp [bitstrStage, hv, State.not_textTooLong_iff.2 hlen, hc, hd]

end Bitstr

/-- Settles O24: the faults one by one, and otherwise what is read after the codewords were written. -/
theorem bitstrWritesDataCodewords : Obligations.BitstrWritesDataCodewords := by
  refine ⟨decode_encode .bitstr, fun s => ⟨fun hv => congrArg StageResult.finish (bitstrStage_noVersion hv), ?_⟩⟩
  rintro v t hv rfl
  refine ⟨?_, ?_, ?_, ?_⟩
  · intro hlen
    exact congrArg StageResult.finish (bitstrStage_tooLong hv hlen)
  · intro hlen hc
    exact congrArg StageResult.finish (bitstrStage_badCharacter hv hlen hc)
  · intro hlen hc hd
    exact congrArg StageResult.finish (bitstrStage_overflow hv hlen hc hd)
  · intro bs pre hlen hc hd
    obtain ⟨hin, hout⟩ := s.readByte_writeBytes_packBits bs Buffer.data.start (dataCodewords v s.sel.level)
    refine ⟨_, congrArg StageResult.finish (bitstrStage_fits hv hlen hc hd), rfl, ?_, hout⟩
    intro i j hi hj
    exact (congrArg (·.getLsbD (7 - j)) (hin i hi)).trans (getLsbD_byteOfBits bs i hj)

/-! ### Commands that did not fault -/

/-- A command that leaves ERR = 0 ended its stage without a fault (rule R105). -/
theorem exec_ok_of_err_eq_false {i : Instr} {s t : State} (h : exec i s = .next t) (ht : t.err = false) :
    ∃ u, stageOf i s = .ok u ∧ t = u.complete := by
  rw [exec_eq_finish] at h
  obtain hok | ⟨c, u, -, rfl⟩ := StageResult.finish_cases h
  · exact hok
  · cases ht

/-- A SELECT without a fault leaves a version whose capacity the text does not exceed (rule R170). -/
theorem fits_of_select {lc : Byte} {s t : State} (h : exec (.select lc) s = .next t) (ht : t.err = false) :
    t.textTooLong = false ∧
      ∃ v, t.sel.version = some v ∧ t.textLen.toNat ≤ capacity t.sel.mode v t.sel.level := by
  obtain ⟨u, hu, rfl⟩ := exec_ok_of_err_eq_false h ht
  rcases selectStage_cases lc s with
    ⟨-, heq⟩ | ⟨l, -, -, heq⟩ | ⟨l, -, -, -, heq⟩ | ⟨l, v, -, hlong, hv, heq⟩ <;> cases heq.symm.trans hu
  exact ⟨hlong, v, rfl, le_capacity_of_smallestVersion hv⟩

@[simp] theorem length_foldText (mode : Mode) (t : List Byte) : (foldText mode t).length = t.length := by
  cases mode with
  | numeric => rfl
  | alphanumeric => exact List.length_map ..

/-- A text no longer than the capacity fits the codewords, whatever its characters (rules R69, R70, R185). -/
theorem dataStream_ne_none {t : List Byte} {mode : Mode} {v : Version} {l : Level}
    (h : t.length ≤ capacity mode v l) : dataStream (foldText mode t) mode v l ≠ none := by
  rw [Ne, dataStream_eq_none_iff, bitCountByLength, length_foldText, not_lt]
  exact (capacityIsLargestFit mode v l t.length).1 h

/-- Settles O28: SELECT leaves a version and a text within its capacity, so one of BITSTR's faults is left. -/
theorem selectedTextFits : Obligations.SelectedTextFits := by
  intro lc s t u _ hselect ht hbitstr
  obtain ⟨hlong, v, hv, hcap⟩ := fits_of_select hselect ht
  rw [exec_eq_finish, stageOf] at hbitstr
  obtain ⟨hnone, -⟩ | ⟨v', -, hlong', -⟩ | ⟨v', -, -, -, heq⟩ | ⟨v', hv', -, -, hd, -⟩ |
    ⟨v', bs, pre, -, -, -, -, heq⟩ := bitstrStage_cases t
  · simp [hv] at hnone
  · simp [hlong] at hlong'
  · rw [heq] at hbitstr
    cases hbitstr
    exact .inr rfl
  · cases hv.symm.trans hv'
    exact absurd hd (dataStream_ne_none (t.length_text.trans_le hcap))
  · rw [heq] at hbitstr
    cases hbitstr
    exact .inl ht

/-! ### The mode indicator (rule R186) -/

/-- The mode indicator, the first field of the header (rule R185). -/
def modeIndicator : Mode → BitVec 4
  | .numeric => 1
  | .alphanumeric => 2

theorem header_eq_modeIndicator_append (mode : Mode) (t : List Byte) :
    ∃ rest, header mode t = bits (modeIndicator mode).toNat 4 ++ rest := by
  cases mode with
  | numeric => exact ⟨_, List.append_assoc ..⟩
  | alphanumeric => exact ⟨_, List.append_assoc ..⟩

/-- The first four bits of a stream are the high nibble of its first byte. -/
theorem extractLsb'_byteOfBits_zero (n : BitVec 4) (rest : List Bool) :
    (byteOfBits (bits n.toNat 4 ++ rest) 0).extractLsb' 4 4 = n := by
  apply BitVec.eq_of_getLsbD_eq
  intro i hi
  rw [BitVec.getLsbD_extractLsb', show 4 + i = 7 - (3 - i) by omega, getLsbD_byteOfBits _ _ (by omega),
    List.getD_eq_getElem?_getD, List.getElem?_append_left (by rw [length_bits]; omega), getElem?_bits _ (by omega),
    show 4 - 1 - (8 * 0 + (3 - i)) = i by omega]
  simp [hi, BitVec.testBit_toNat]

theorem dataStream_eq_modeIndicator_append {t : List Byte} {mode : Mode} {v : Version} {l : Level} {bs : List Bool}
    {pre : Nat} (h : dataStream t mode v l = some (bs, pre)) :
    ∃ rest, bs = bits (modeIndicator mode).toNat 4 ++ rest := by
  have hfit : (header mode t).length ≤ 8 * dataCodewords v l :=
    not_lt.1 fun hlt => by simp [dataStream_eq_none_iff.2 hlt] at h
  obtain ⟨rest, hrest⟩ := header_eq_modeIndicator_append mode t
  rw [dataStream_eq_some hfit rfl, hrest] at h
  cases h
  exact ⟨_, by rw [List.append_assoc, List.append_assoc]⟩

/-- Settles O29: the stream begins with the indicator, and its first byte is DATA[0]. -/
theorem firstCodewordHoldsModeIndicator : Obligations.FirstCodewordHoldsModeIndicator := by
  intro s t _ hbitstr ht
  obtain ⟨u, hu, rfl⟩ := exec_ok_of_err_eq_false hbitstr ht
  rcases bitstrStage_cases s with ⟨-, heq⟩ | ⟨v, -, -, heq⟩ | ⟨v, -, -, -, heq⟩ | ⟨v, -, -, -, -, heq⟩ |
    ⟨v, bs, pre, -, -, -, hd, heq⟩ <;> cases heq.symm.trans hu
  obtain ⟨rest, rfl⟩ := dataStream_eq_modeIndicator_append hd
  have hbyte := (s.readByte_writeBytes_packBits (bits (modeIndicator s.sel.mode).toNat 4 ++ rest) Buffer.data.start
    (dataCodewords v s.sel.level)).1 0 (dataCodewords_pos v s.sel.level)
  refine (congrArg (·.extractLsb' 4 4) hbyte).trans ((extractLsb'_byteOfBits_zero _ rest).trans ?_)
  cases s.sel.mode <;> rfl

end Sys2Proof.Machine

namespace Sys2Proof.Machine

/-! ### Blocks of one length, one after another -/

/-- Position n·i + j of blocks of n entries is entry j of block i. -/
theorem getD_flatten_of_length_eq {α : Type} {L : List (List α)} {n i j : Nat} (d : α)
    (hL : ∀ b ∈ L, b.length = n) (hj : j < n) : L.flatten.getD (n * i + j) d = (L.getD i []).getD j d := by
  induction L generalizing i with
  | nil => rfl
  | cons b L ih =>
    obtain ⟨hb, hL⟩ := List.forall_mem_cons.1 hL
    rw [List.flatten_cons]
    cases i with
    | zero => rw [Nat.mul_zero, Nat.zero_add, List.getD_append _ _ _ _ (hb.symm ▸ hj), List.getD_cons_zero]
    | succ i =>
      rw [List.getD_append_right _ _ _ _ (by rw [hb, Nat.mul_succ]; omega), hb, List.getD_cons_succ, ← ih hL,
        show n * (i + 1) + j - n = n * i + j by rw [Nat.mul_succ]; omega]

theorem length_flatten_of_length_eq {α : Type} {L : List (List α)} {n : Nat} (hL : ∀ b ∈ L, b.length = n) :
    L.flatten.length = L.length * n := by
  rw [List.length_flatten, List.map_eq_replicate_iff.2 hL, List.sum_const_nat]

/-! ### The bits of a codeword (rules R12, R205) -/

theorem getD_bits_toNat (c : Byte) {j : Nat} (hj : j < 8) : (bits c.toNat 8).getD j false = c.getLsbD (7 - j) := by
  rw [List.getD_eq_getElem?_getD, getElem?_bits _ hj]
  rfl

theorem length_flatMap_bits (cs : List Byte) : (cs.flatMap fun c => bits c.toNat 8).length = 8 * cs.length := by
  simp [List.length_flatMap, Nat.mul_comm]

/-- Codewords are rendered one after another, each with its most significant bit first. -/
theorem getD_flatMap_bits {cs : List Byte} {k j : Nat} (hk : k < cs.length) (hj : j < 8) :
    (cs.flatMap fun c => bits c.toNat 8).getD (8 * k + j) false = (cs.getD k 0).getLsbD (7 - j) := by
  rw [List.flatMap_def, getD_flatten_of_length_eq _ (by simp) hj,
    List.getD_eq_getElem (List.map _ cs) _ (by rwa [List.length_map]), List.getElem_map, getD_bits_toNat _ hj,
    List.getD_eq_getElem _ _ hk]

/-! ### The round robin (rule R205) -/

theorem length_roundRobin (n : Nat) (blks : List (List Byte)) :
    (roundRobin n blks).length = blks.length * n := by
  simp [roundRobin, List.length_flatMap, Nat.mul_comm]

/-- Round i holds codeword i of every block, in the blocks' order. -/
theorem getD_roundRobin {n i b : Nat} {blks : List (List Byte)} (hi : i < n) (hb : b < blks.length) :
    (roundRobin n blks).getD (blks.length * i + b) 0 = (blks.getD b []).getD i 0 := by
  rw [roundRobin, List.flatMap_def, getD_flatten_of_length_eq _ (by simp) hb,
    List.getD_eq_getElem (List.map _ (List.range n)) _ (by simpa using hi), List.getElem_map, List.getElem_range]
  exact List.getD_map (d := []) blks (fun blk => blk.getD i 0)

/-- With one block the round robin is that block. -/
theorem roundRobin_singleton (blk : List Byte) : roundRobin blk.length [blk] = blk := by
  change ((List.range blk.length).flatMap fun i => [blk.getD i 0]) = blk
  rw [← List.map_eq_flatMap]
  exact List.ext_getElem (by simp) fun i hi hi' => by simp [hi']

/-! ### The blocks of a symbol (rules R68, R201) -/

theorem blocks_mul_blockData (v : Version) (l : Level) : blocks v l * blockData v l = dataCodewords v l := by
  cases v <;> cases l <;> rfl

theorem blocks_mul_blockErrors (v : Version) (l : Level) : blocks v l * blockErrors v l = errorCodewords v l := by
  cases v <;> cases l <;> rfl

theorem blockData_pos (v : Version) (l : Level) : 0 < blockData v l := by
  cases v <;> cases l <;> decide

/-- Every block's error-codeword count has a generator (rule R65). -/
theorem blockErrors_mem_eSet (v : Version) (l : Level) : blockErrors v l ∈ Config.eSet := by
  cases v <;> cases l <;> decide

@[simp] theorem length_dataBlocks (v : Version) (l : Level) (d : List Byte) :
    (dataBlocks v l d).length = blocks v l := by
  simp [dataBlocks]

@[simp] theorem length_errorBlocks (v : Version) (l : Level) (clean : Bool) (d : List Byte) :
    (errorBlocks v l clean d).length = blocks v l := by
  simp [errorBlocks]

section Blocks

variable {v : Version} {l : Level} {b : Nat}

theorem getD_dataBlocks (d : List Byte) (hb : b < blocks v l) :
    (dataBlocks v l d).getD b [] = (d.drop (b * blockData v l)).take (blockData v l) := by
  simp [dataBlocks, hb]

theorem getD_errorBlocks (clean : Bool) (d : List Byte) (hb : b < blocks v l) :
    (errorBlocks v l clean d).getD b [] =
      rsDiv ((d.drop (b * blockData v l)).take (blockData v l)) (blockErrors v l) clean := by
  simp [errorBlocks, dataBlocks, hb]

/-- No block is empty, so each remainder has its full length (rule R153). -/
theorem length_of_mem_errorBlocks {clean : Bool} {d e : List Byte} (hd : d.length = dataCodewords v l)
    (he : e ∈ errorBlocks v l clean d) : e.length = blockErrors v l := by
  obtain ⟨blk, hblk, rfl⟩ := List.mem_map.1 he
  obtain ⟨b, hb, rfl⟩ := List.mem_map.1 hblk
  refine remainderHasErrorCount _ _ _ (List.ne_nil_of_length_pos ?_) (blockErrors_mem_eSet v l)
  have hfit : (b + 1) * blockData v l ≤ d.length := by
    rw [hd, ← blocks_mul_blockData v l]
    exact Nat.mul_le_mul_right _ (List.mem_range.1 hb)
  have hpos := blockData_pos v l
  rw [Nat.succ_mul] at hfit
  rw [List.length_take, List.length_drop]
  omega

theorem length_flatten_errorBlocks {d : List Byte} (clean : Bool) (hd : d.length = dataCodewords v l) :
    (errorBlocks v l clean d).flatten.length = errorCodewords v l := by
  rw [length_flatten_of_length_eq fun _ he => length_of_mem_errorBlocks hd he, length_errorBlocks,
    blocks_mul_blockErrors]

end Blocks

/-! ### The codeword sequence (rule R205) -/

theorem length_codewordSequence (v : Version) (l : Level) (clean : Bool) (d : List Byte) :
    (codewordSequence v l clean d).length = dataCodewords v l + errorCodewords v l := by
  rw [codewordSequence, List.length_append, length_roundRobin, length_roundRobin, length_dataBlocks,
    length_errorBlocks, blocks_mul_blockData, blocks_mul_blockErrors]

section Sequence

variable {v : Version} {l : Level} {i b : Nat}

/-- The data codewords come first, codeword i of every block in round i. -/
theorem getD_codewordSequence_data (clean : Bool) (d : List Byte) (hi : i < blockData v l) (hb : b < blocks v l) :
    (codewordSequence v l clean d).getD (blocks v l * i + b) 0 =
      ((d.drop (b * blockData v l)).take (blockData v l)).getD i 0 := by
  have hlt : blocks v l * i + b < (roundRobin (blockData v l) (dataBlocks v l d)).length := by
    rw [length_roundRobin, length_dataBlocks]
    exact (Nat.mul_add_lt_mul_of_lt_of_lt hi hb).trans_eq (Nat.mul_comm ..)
  have hround := getD_roundRobin (blks := dataBlocks v l d) hi (hb.trans_eq (length_dataBlocks v l d).symm)
  rw [length_dataBlocks, getD_dataBlocks d hb] at hround
  rw [codewordSequence, List.getD_append _ _ _ _ hlt, hround]

/-- The error codewords follow in the same order. -/
theorem getD_codewordSequence_error (clean : Bool) (d : List Byte) (hi : i < blockErrors v l) (hb : b < blocks v l) :
    (codewordSequence v l clean d).getD (blocks v l * blockData v l + (blocks v l * i + b)) 0 =
      (rsDiv ((d.drop (b * blockData v l)).take (blockData v l)) (blockErrors v l) clean).getD i 0 := by
  have hround := getD_roundRobin (blks := errorBlocks v l clean d) hi
    (hb.trans_eq (length_errorBlocks v l clean d).symm)
  rw [length_errorBlocks, getD_errorBlocks clean d hb] at hround
  rw [codewordSequence, List.getD_append_right _ _ _ _ (by rw [length_roundRobin, length_dataBlocks]; omega),
    length_roundRobin, length_dataBlocks, Nat.add_sub_cancel_left, hround]

/-- One block is its data codewords followed by its error codewords. -/
theorem codewordSequence_of_blocks_eq_one {d : List Byte} (clean : Bool) (hd : d.length = dataCodewords v l)
    (h : blocks v l = 1) : codewordSequence v l clean d = d ++ rsDiv d (errorCodewords v l) clean := by
  have hDb : blockData v l = d.length := by rw [hd, ← blocks_mul_blockData, h, Nat.one_mul]
  have hEb : blockErrors v l = errorCodewords v l := by rw [← blocks_mul_blockErrors, h, Nat.one_mul]
  have hdata : dataBlocks v l d = [d] := by simp [dataBlocks, h, hDb]
  have herr : errorBlocks v l clean d = [rsDiv d (errorCodewords v l) clean] := by simp [errorBlocks, hdata, hEb]
  have hlen : (rsDiv d (errorCodewords v l) clean).length = blockErrors v l :=
    length_of_mem_errorBlocks hd (herr ▸ List.mem_singleton_self _)
  rw [codewordSequence, hdata, herr, hDb, ← hlen, roundRobin_singleton, roundRobin_singleton]

end Sequence

/-- Settles O31: the round robin has one codeword of each block in each round, for one block and for two. -/
theorem interleavingOrder : Obligations.InterleavingOrder := by
  intro v l clean d hd
  refine ⟨fun k j hk hj => ?_, codewordSequence_of_blocks_eq_one clean hd, ?_⟩
  · rw [finalStream, List.getD_append _ _ _ _ (by rw [length_flatMap_bits]; omega), getD_flatMap_bits hk hj]
  · rintro h d0 d1 e0 e1 rfl rfl rfl rfl
    have hsecond : (d.drop (1 * blockData v l)).take (blockData v l) = d.drop (blockData v l) := by
      rw [Nat.one_mul, List.take_of_length_le (by rw [List.length_drop, hd, ← blocks_mul_blockData, h]; omega)]
    have hfirst : (d.drop (0 * blockData v l)).take (blockData v l) = d.take (blockData v l) := by
      rw [Nat.zero_mul, List.drop_zero]
    constructor
    · intro i hi
      have h0 := getD_codewordSequence_data (b := 0) clean d hi (by omega)
      have h1 := getD_codewordSequence_data (b := 1) clean d hi (by omega)
      rw [h, hfirst] at h0
      rw [h, hsecond] at h1
      exact ⟨h0, h1⟩
    · intro j hj
      have h0 := getD_codewordSequence_error (b := 0) clean d hj (by omega)
      have h1 := getD_codewordSequence_error (b := 1) clean d hj (by omega)
      rw [h, hfirst] at h0
      rw [h, hsecond] at h1
      exact ⟨h0, h1⟩

/-! ### The final stream (rules R75, R202) -/

theorem length_finalStream (v : Version) (l : Level) (clean : Bool) (d : List Byte) :
    (finalStream v l clean d).length = 8 * (dataCodewords v l + errorCodewords v l) + remainderBits v := by
  rw [finalStream, List.length_append, length_flatMap_bits, length_codewordSequence, length_zeroBits]

/-- Settles O32: the codewords are counted, and the counts of each version are those of its path. -/
theorem finalStreamFillsPath : Obligations.FinalStreamFillsPath := by
  intro v l clean d _
  have hlen := length_finalStream v l clean d
  have hpath : (finalStream v l clean d).length = pathLength v := by
    rw [hlen, pathLength_eq]
    cases v <;> cases l <;> rfl
  refine ⟨hlen, ?_, hpath.trans (pathLength_eq v), hpath⟩
  rw [finalStream, List.drop_left' (by rw [length_flatMap_bits, length_codewordSequence])]
  cases v <;> rfl

/-! ### ECCIL (rules R200, R203, R206) -/

/-- The two buffers ECCIL writes. -/
def State.writeStreamAndEcc (s : State) (bs : List Bool) (es : List Byte) : State :=
  (s.writeBytes Buffer.stream.start (packBits bs Config.streamBytes)).writeBytes Buffer.ecc.start es

/-- STREAM and ECC do not overlap, so each reads back what was written to it. -/
theorem State.readByte_writeStreamAndEcc (s : State) (bs : List Bool) {es : List Byte}
    (hes : es.length ≤ Buffer.ecc.size) :
    (∀ i < 72, (s.writeStreamAndEcc bs es).readByte (0x300 + i) = byteOfBits bs i) ∧
      (∀ j < es.length, (s.writeStreamAndEcc bs es).readByte (0x240 + j) = es.getD j 0) ∧
      ∀ a, ¬ (0x300 ≤ a ∧ a < 0x348) → ¬ (0x240 ≤ a ∧ a < 0x240 + es.length) →
        (s.writeStreamAndEcc bs es).readByte a = s.readByte a := by
  obtain ⟨hin, hout⟩ := s.readByte_writeBytes_packBits bs 0x300 72
  have hes : es.length ≤ 64 := hes
  have hread := (s.writeBytes 0x300 (packBits bs 72)).readByte_writeBytes 0x240 es
  refine ⟨fun i hi => ?_, fun j hj => ?_, fun a hstream hecc => ?_⟩
  · exact (hread _).trans ((if_neg (by omega)).trans (hin i hi))
  · exact (hread _).trans ((if_pos (by omega)).trans (by rw [Nat.add_sub_cancel_left]))
  · exact (hread a).trans ((if_neg hecc).trans (hout a hstream))

/-- ECC holds the error blocks one after another (rule R206). -/
theorem getD_flatten_errorBlocks {v : Version} {l : Level} {b j : Nat} {d : List Byte} (clean : Bool)
    (hd : d.length = dataCodewords v l) (hb : b < blocks v l) (hj : j < blockErrors v l) :
    (errorBlocks v l clean d).flatten.getD (b * blockErrors v l + j) 0 =
      (rsDiv ((d.drop (b * blockData v l)).take (blockData v l)) (blockErrors v l) clean).getD j 0 := by
  rw [Nat.mul_comm, getD_flatten_of_length_eq _ (fun _ he => length_of_mem_errorBlocks hd he) hj,
    getD_errorBlocks clean d hb]

/-- Settles O30: by ECCIL's two ways to end, and what is read in the two buffers it writes. -/
theorem eccilWritesStream : Obligations.EccilWritesStream := by
  refine ⟨decode_encode .eccil, fun s => ?_⟩
  obtain ⟨hnone, heq⟩ | ⟨w, hw, heq⟩ := eccilStage_cases s
  · refine ⟨fun _ => congrArg StageResult.finish heq, fun v d hv => ?_⟩
    simp [hnone] at hv
  · refine ⟨fun hnone => by simp [hnone] at hw, ?_⟩
    rintro v d hv rfl
    obtain rfl : v = w := Option.some.inj (hv.symm.trans hw)
    have hd : (s.readBuffer .data (dataCodewords v s.sel.level)).length = dataCodewords v s.sel.level := by
      simp [State.readBuffer, State.readBytes]
    have hlen := length_flatten_errorBlocks s.clean hd
    obtain ⟨hstream, hecc, hout⟩ := s.readByte_writeStreamAndEcc
      (finalStream v s.sel.level s.clean (s.readBuffer .data (dataCodewords v s.sel.level)))
      (length_errorBlocks_flatten_le v s.sel.level s.clean (s.readBuffer .data (dataCodewords v s.sel.level)))
    rw [hlen] at hecc hout
    refine ⟨_, congrArg StageResult.finish heq, rfl, fun i hi => ?_, fun b j hb hj => ?_, hout⟩
    · refine (congrArg (·.getLsbD (7 - i % 8)) (hstream (i / 8) (by omega))).trans ?_
      rw [getLsbD_byteOfBits _ _ (by omega), Nat.div_add_mod]
      rfl
    · have hlt : b * blockErrors v s.sel.level + j < errorCodewords v s.sel.level := by
        rw [← blocks_mul_blockErrors, Nat.mul_comm b]
        exact Nat.mul_add_lt_mul_of_lt_of_lt hb hj
      rw [Nat.add_assoc]
      exact (hecc _ hlt).trans (getD_flatten_errorBlocks s.clean hd hb hj)

end Sys2Proof.Machine

namespace Sys2Proof.Machine

/-! ### One column pair of the placement path (rule R75) -/

/-- Column 6 is the vertical timing pattern (rule R216). -/
theorem reserved_column_six (v : Version) (r : Nat) : reserved v r 6 = true := by
  simp [reserved]

theorem mem_pathRow {v : Version} {right r r' c : Nat} :
    (r', c) ∈ pathRow v right r ↔ r' = r ∧ (c = right ∨ c = right - 1) ∧ reserved v r' c = false := by
  rw [pathRow, List.mem_filter, List.mem_pair, Prod.mk.injEq, Prod.mk.injEq, Bool.not_eq_true', ← and_or_left,
    and_assoc]

theorem nodup_pathRow {v : Version} {right r : Nat} (h : 0 < right) : (pathRow v right r).Nodup := by
  refine List.Nodup.filter _ (List.nodup_cons.2 ⟨fun heq => ?_, List.nodup_singleton _⟩)
  have hcol : right = right - 1 := congrArg Prod.snd (List.mem_singleton.1 heq)
  omega

/-- The rows of a column pair in the order they are walked. -/
def walkedRows (v : Version) (up : Bool) : List Nat :=
  if up then (List.range v.side).reverse else List.range v.side

theorem mem_walkedRows {v : Version} {up : Bool} {r : Nat} : r ∈ walkedRows v up ↔ r < v.side := by
  cases up <;> simp [walkedRows]

theorem nodup_walkedRows (v : Version) (up : Bool) : (walkedRows v up).Nodup := by
  cases up with
  | false => exact List.nodup_range
  | true => exact List.nodup_reverse.2 List.nodup_range

/-- The cells of one column pair, given its right column, in the order they are visited. -/
def pathPair (v : Version) (right : Nat) (up : Bool) : List (Nat × Nat) :=
  (walkedRows v up).flatMap (pathRow v right)

theorem mem_pathPair {v : Version} {right r c : Nat} {up : Bool} :
    (r, c) ∈ pathPair v right up ↔ r < v.side ∧ (c = right ∨ c = right - 1) ∧ reserved v r c = false := by
  simp [pathPair, mem_walkedRows, mem_pathRow]

/-- Two rows of a column pair share no cell. -/
theorem nodup_pathPair {v : Version} {right : Nat} (up : Bool) (h : 0 < right) : (pathPair v right up).Nodup := by
  refine List.nodup_flatMap.2 ⟨fun _ _ => nodup_pathRow h, (nodup_walkedRows v up).imp ?_⟩
  rintro r r' hne ⟨a, c⟩ ha ha'
  exact hne ((mem_pathRow.1 ha).1.symm.trans (mem_pathRow.1 ha').1)

/-! ### The zig-zag over the column pairs (rules R75, R223) -/

/-- The right column of the next pair: the pair that would hold column 6 is moved one to the left. -/
def skipTiming (right : Nat) : Nat := if right = 6 then 5 else right

theorem pathFrom_zero_right (v : Version) (fuel : Nat) (up : Bool) : pathFrom v fuel 0 up = [] := by
  cases fuel <;> rfl

theorem pathFrom_succ {v : Version} {fuel right : Nat} {up : Bool} (h : right ≠ 0) :
    pathFrom v (fuel + 1) right up =
      pathPair v (skipTiming right) up ++ pathFrom v fuel (skipTiming right - 2) (!up) := by
  rw [pathFrom, if_neg h]
  rfl

/-- Where the walk can stand: at an even column right of the timing column or on it, at an odd one left of it,
or at its end. -/
def AtPair (right : Nat) : Prop :=
  (6 ≤ right ∧ right % 2 = 0) ∨ (right < 6 ∧ right % 2 = 1) ∨ right = 0

theorem atPair_next {right : Nat} (h : AtPair right) : AtPair (skipTiming right - 2) := by
  unfold AtPair skipTiming at *
  split <;> omega

theorem skipTiming_pos {right : Nat} (h : right ≠ 0) : 0 < skipTiming right := by
  unfold skipTiming
  split <;> omega

theorem skipTiming_le (right : Nat) : skipTiming right ≤ right := by
  unfold skipTiming
  split <;> omega

/-- The columns still to come are the next pair's two and those left of them; column 6 is in no pair. -/
theorem column_cases {right c : Nat} (h : AtPair right) (h0 : right ≠ 0) (hc : c ≠ 6) :
    c ≤ right ↔ (c = skipTiming right ∨ c = skipTiming right - 1) ∨
      (skipTiming right - 2 ≠ 0 ∧ c ≤ skipTiming right - 2) := by
  unfold AtPair at h
  unfold skipTiming
  split <;> omega

/-- From column `right` on, the walk visits exactly the free cells of columns 0 to `right`. -/
theorem mem_pathFrom {v : Version} {fuel right r c : Nat} {up : Bool} (hfuel : right ≤ fuel) (h : AtPair right) :
    (r, c) ∈ pathFrom v fuel right up ↔
      right ≠ 0 ∧ c ≤ right ∧ r < v.side ∧ reserved v r c = false := by
  induction fuel generalizing right up with
  | zero => simp [Nat.le_zero.1 hfuel, pathFrom_zero_right]
  | succ fuel ih =>
    by_cases h0 : right = 0
    · simp [h0, pathFrom_zero_right]
    · have hle := skipTiming_le right
      rw [pathFrom_succ h0, List.mem_append, mem_pathPair, ih (by omega) (atPair_next h)]
      by_cases hfree : reserved v r c = false
      · have hc : c ≠ 6 := by
          rintro rfl
          simp [reserved_column_six] at hfree
        rw [column_cases h h0 hc]
        tauto
      · simp [hfree]

/-- A later pair lies left of this one, so no cell comes twice. -/
theorem nodup_pathFrom {v : Version} {fuel right : Nat} {up : Bool} (hfuel : right ≤ fuel) (h : AtPair right) :
    (pathFrom v fuel right up).Nodup := by
  induction fuel generalizing right up with
  | zero => exact List.nodup_nil
  | succ fuel ih =>
    by_cases h0 : right = 0
    · simp [h0, pathFrom_zero_right]
    · have hle := skipTiming_le right
      have hpos := skipTiming_pos h0
      have hnext : skipTiming right - 2 ≤ fuel := by omega
      rw [pathFrom_succ h0]
      refine (nodup_pathPair up hpos).append (ih hnext (atPair_next h)) ?_
      rintro ⟨r, c⟩ hpair hlater
      obtain ⟨-, hc, -⟩ := mem_pathPair.1 hpair
      obtain ⟨hne, hc', -⟩ := (mem_pathFrom hnext (atPair_next h)).1 hlater
      omega

theorem atPair_side (v : Version) : AtPair (v.side - 1) := by
  cases v <;> exact .inl (by decide)

theorem Version.side_le (v : Version) : v.side ≤ 29 := by
  cases v <;> decide

theorem nodup_path (v : Version) : (path v).Nodup := nodup_pathFrom (Nat.sub_le ..) (atPair_side v)

theorem mem_path {v : Version} {r c : Nat} :
    (r, c) ∈ path v ↔ r < v.side ∧ c < v.side ∧ reserved v r c = false := by
  rw [path, mem_pathFrom (Nat.sub_le ..) (atPair_side v)]
  have hpos : 17 ≤ v.side := Nat.le_add_left ..
  constructor
  · rintro ⟨-, hc, hr, hfree⟩
    exact ⟨hr, by omega, hfree⟩
  · rintro ⟨hr, hc, hfree⟩
    exact ⟨by omega, by omega, hr, hfree⟩

/-- Settles O35: the walk takes the column pairs one after another, and the pairs cut the free cells into
disjoint parts. -/
theorem pathVisitsFreeCellsOnce : Obligations.PathVisitsFreeCellsOnce :=
  fun v => ⟨nodup_path v, fun _ _ => mem_path⟩

/-! ### Placement (rules R203, R223) -/

/-- A cell off the list is not touched. -/
theorem get_placeFrom_of_notMem {bytes : List Byte} {i r c : Nat} {ps : List (Nat × Nat)} {m : Matrix}
    (h : (r, c) ∉ ps) : Matrix.get (placeFrom bytes i ps m) r c = Matrix.get m r c := by
  induction ps generalizing i m with
  | nil => rfl
  | cons p ps ih =>
    obtain ⟨hne, hps⟩ := not_or.1 (List.mem_cons.not.1 h)
    rw [placeFrom, ih hps, Matrix.get_set, if_neg]
    rintro ⟨rfl, rfl, -⟩
    exact hne rfl

/-- The cell at place k of the list gets the k-th bit: it is set there, and as it comes once, not again. -/
theorem get_placeFrom_of_getElem? {bytes : List Byte} {i k r c : Nat} {ps : List (Nat × Nat)} {m : Matrix}
    (hn : ps.Nodup) (hk : ps[k]? = some (r, c)) (hr : r < m.length) (hc : c < 29) :
    Matrix.get (placeFrom bytes i ps m) r c = streamBit bytes (i + k) := by
  induction ps generalizing i k m with
  | nil => cases hk
  | cons p ps ih =>
    obtain ⟨hp, hps⟩ := List.nodup_cons.1 hn
    cases k with
    | zero =>
      obtain rfl : p = (r, c) := Option.some.inj hk
      rw [placeFrom, get_placeFrom_of_notMem hp, Matrix.get_set, if_pos ⟨rfl, rfl, hr, hc⟩]
      rfl
    | succ k =>
      rw [placeFrom, ih hps hk (by rwa [Matrix.length_set]), Nat.add_assoc, Nat.add_comm 1 k]

/-- A stream bit as it is read from the window (rule R203). -/
theorem streamBit_readBuffer (s : State) {i : Nat} (hi : i < 576) :
    streamBit (s.readBuffer .stream Config.streamBytes) i =
      (s.readByte (0x300 + i / 8)).getLsbD (7 - i % 8) := by
  have hbyte : i / 8 < 72 := by omega
  simp [streamBit, State.readBuffer, State.readBytes, Config.streamBytes, Buffer.start, hbyte]

/-! ### The unmasked matrix (rules R222, R225) -/

section Build

variable {v : Version} {bytes : List Byte} {r c : Nat}

theorem get_buildMatrix_path {i : Nat} (h : (path v)[i]? = some (r, c)) :
    Matrix.get (buildMatrix v bytes) r c = streamBit bytes i := by
  obtain ⟨hr, hc, -⟩ := mem_path.1 (List.mem_of_getElem? h)
  have hside := v.side_le
  rw [buildMatrix, get_placeFrom_of_getElem? (nodup_path v) h (by rw [stamp, Matrix.length_ofCells]; omega)
    (by omega), Nat.zero_add]

theorem get_buildMatrix_reserved (hr : r < v.side) (hc : c < v.side) (h : reserved v r c = true) :
    Matrix.get (buildMatrix v bytes) r c = stampDark v r c := by
  have hoff : (r, c) ∉ path v := by simp [mem_path, h]
  have hside := v.side_le
  rw [buildMatrix, get_placeFrom_of_notMem hoff, stamp, Matrix.get_ofCells]
  simp [hr, hc, hr.trans_le hside, hc.trans_le hside]

theorem get_buildMatrix_outside (h : v.side ≤ r ∨ v.side ≤ c) :
    Matrix.get (buildMatrix v bytes) r c = false := by
  have hoff : (r, c) ∉ path v := fun hmem => by
    obtain ⟨hr, hc, -⟩ := mem_path.1 hmem
    omega
  rw [buildMatrix, get_placeFrom_of_notMem hoff, stamp, Matrix.get_ofCells]
  rcases h with h | h <;> simp [Nat.not_lt.2 h]

end Build

/-! ### BUILD (rules R224, R225) -/

/-- No path is longer than STREAM has bits (rules R9, R75). -/
theorem pathLength_le (v : Version) : pathLength v ≤ 567 := by
  rw [pathLength_eq]
  cases v <;> decide

/-- BASE reads back the matrix BUILD wrote: it has no dark cell past row 28. -/
theorem get_readMatrix_writeMatrix_buildMatrix (s : State) (v : Version) (bytes : List Byte) (r c : Nat) :
    Matrix.get ((s.writeMatrix .base (buildMatrix v bytes)).readMatrix .base) r c =
      Matrix.get (buildMatrix v bytes) r c := by
  rw [State.get_readMatrix_writeMatrix]
  by_cases hr : r < 29
  · simp [hr]
  · have hside := v.side_le
    rw [get_buildMatrix_outside (.inl (by omega)), Bool.and_false]

/-- Settles O34: by BUILD's three ways to end, and what each kind of cell reads after the placement. -/
theorem buildPlacesStream : Obligations.BuildPlacesStream := by
  refine ⟨decode_encode .build, fun s => ?_⟩
  obtain ⟨hnone, heq⟩ | ⟨w, hw, hlen, heq⟩ | ⟨w, hw, hlen, heq⟩ := buildStage_cases s
  · exact ⟨fun _ => congrArg StageResult.finish heq, fun v hv => by simp [hnone] at hv⟩
  · refine ⟨fun hnone => by simp [hnone] at hw, fun v hv => ?_⟩
    obtain rfl : v = w := Option.some.inj (hv.symm.trans hw)
    exact ⟨fun _ => congrArg StageResult.finish heq, fun hlen' => absurd hlen' hlen⟩
  · refine ⟨fun hnone => by simp [hnone] at hw, fun v hv => ?_⟩
    obtain rfl : v = w := Option.some.inj (hv.symm.trans hw)
    refine ⟨fun hlen' => absurd hlen hlen', fun _ => ?_⟩
    have hread := get_readMatrix_writeMatrix_buildMatrix s v (s.readBuffer .stream Config.streamBytes)
    refine ⟨_, congrArg StageResult.finish heq, rfl, fun i r c hi => ?_, fun r c hr hc h => ?_, fun r c h => ?_,
      fun a ha => ?_⟩
    · have hlt : i < pathLength v := (List.getElem?_eq_some_iff.1 hi).1
      have hmax := pathLength_le v
      exact (hread r c).trans ((get_buildMatrix_path hi).trans (streamBit_readBuffer s (by omega)))
    · exact (hread r c).trans (get_buildMatrix_reserved hr hc h)
    · exact (hread r c).trans (get_buildMatrix_outside h)
    · exact (s.readByte_writeMatrix .base _ a).trans (if_neg ha)

/-! ### BUILD after ECCIL (rules R202, R224, R280) -/

/-- What an ECCIL without a fault leaves for BUILD: a version, and STREAM_LEN at its path's length. -/
theorem streamLen_of_eccil {s t : State} (h : exec .eccil s = .next t) (ht : t.err = false) :
    ∃ v, t.sel.version = some v ∧ t.streamLen.toNat = pathLength v := by
  obtain ⟨u, hu, rfl⟩ := exec_ok_of_err_eq_false h ht
  obtain ⟨-, heq⟩ | ⟨v, hv, heq⟩ := eccilStage_cases s <;> cases heq.symm.trans hu
  refine ⟨v, hv, ?_⟩
  have hd : (s.readBuffer .data (dataCodewords v s.sel.level)).length = dataCodewords v s.sel.level := by
    simp [State.readBuffer, State.readBytes]
  obtain ⟨-, -, -, hlen⟩ := finalStreamFillsPath v s.sel.level s.clean _ hd
  have hmax := pathLength_le v
  simp only [State.complete_streamLen, hlen]
  exact Nat.mod_eq_of_lt (by omega)

/-- Settles O33: neither of BUILD's two faults can meet what ECCIL leaves. -/
theorem buildAcceptsEccilOutput : Obligations.BuildAcceptsEccilOutput := by
  intro s t u _ heccil ht hbuild
  obtain ⟨v, hv, hlen⟩ := streamLen_of_eccil heccil ht
  obtain ⟨hnone, -⟩ | ⟨w, hw, hne, -⟩ | ⟨w, -, -, heq⟩ := buildStage_cases t
  · simp [hv] at hnone
  · obtain rfl : v = w := Option.some.inj (hv.symm.trans hw)
    exact absurd hlen hne
  · have hdone := hbuild.symm.trans (congrArg StageResult.finish heq)
    cases hdone
    exact ht

end Sys2Proof.Machine

namespace Sys2Proof.Machine

/-! ### The winner (rule R251) -/

/-- The loop over masks 1 to 7, started at mask 0, finds the first least score of the list 0..7. -/
theorem argmin_eq_selectMask (sc : Fin 8 → Nat) : (List.finRange 8).argmin sc = some (selectMask sc) := by
  refine List.foldl_hom (l := [1, 2, 3, 4, 5, 6, 7]) some fun win m => ?_
  rw [apply_ite some]
  rfl

/-- Settles O38: an entry's place in the list 0..7 is its mask id. -/
theorem lowestScoreWins : Obligations.LowestScoreWins := by
  intro sc m
  have hmin : selectMask sc = m ↔ m ∈ (List.finRange 8).argmin sc := by
    rw [argmin_eq_selectMask, Option.mem_some_iff]
  rw [hmin, List.mem_argmin_iff]
  simp only [List.mem_finRange, List.idxOf_finRange, true_and, forall_const]
  refine and_congr_right fun _ => forall_congr' fun j => ?_
  rw [← not_le, ← not_le, Fin.le_def, not_imp_not]

/-! ### Candidates (rules R226, R243) -/

/-- The modules of a candidate: 0 outside N×N (rule R226). -/
theorem get_candidate (b : Matrix) (v : Version) (m : Fin 8) (r c : Nat) :
    Matrix.get (candidate b v m) r c =
      (decide (r < v.side) && decide (c < v.side) && candidateCell b v m r c) := by
  have hside := v.side_le
  rw [candidate, Matrix.get_ofCells]
  by_cases hr : r < v.side
  · by_cases hc : c < v.side
    · simp [hr, hc, hr.trans_le hside, hc.trans_le hside]
    · simp [hc]
  · simp [hr]

/-- Settles O37: a cell of N×N is the candidate's own cell, and R243 says which that is. -/
theorem candidateKeepsReservedCells : Obligations.CandidateKeepsReservedCells := by
  intro b v m r c hr hc
  have hcell : Matrix.get (candidate b v m) r c = candidateCell b v m r c := by simp [get_candidate, hr, hc]
  rw [hcell, candidateCell]
  refine ⟨fun hres => ?_, fun hres hp => ?_, fun hres hp => ?_⟩
  · simp [hres]
  · simp [hres, hp]
  · simp [hres, hp]

/-- A candidate depends on the N×N cells of the base matrix alone (rule R252). -/
theorem candidate_congr {b b' : Matrix} {v : Version} (m : Fin 8)
    (h : ∀ r c, r < v.side → c < v.side → Matrix.get b r c = Matrix.get b' r c) :
    candidate b v m = candidate b' v m := by
  unfold candidate Matrix.ofCells
  refine List.map_congr_left fun r _ => congrArg BitVec.ofFnLE (funext fun c => ?_)
  by_cases hr : r < v.side
  · by_cases hc : c.val < v.side
    · simp only [candidateCell, h r c hr hc]
    · simp [hc]
  · simp [hr]

/-! ### Sums over lines and cells -/

theorem sumTo_eq_sum_range (n : Nat) (f : Nat → Nat) : sumTo n f = ∑ i ∈ Finset.range n, f i := rfl

theorem sumTo_congr {n : Nat} {f g : Nat → Nat} (h : ∀ i < n, f i = g i) : sumTo n f = sumTo n g :=
  congrArg List.sum (List.map_congr_left fun i hi => h i (List.mem_range.1 hi))

theorem sumTo_le_sumTo {n : Nat} {f g : Nat → Nat} (h : ∀ i < n, f i ≤ g i) : sumTo n f ≤ sumTo n g :=
  List.sum_le_sum fun i hi => h i (List.mem_range.1 hi)

/-- Counting is a sum of equal amounts. -/
theorem sum_map_ite {α : Type} (k : Nat) (p : α → Bool) (l : List α) :
    (l.map fun x => if p x then k else 0).sum = k * l.countP p := by
  induction l with
  | nil => rfl
  | cons x xs ih =>
    rw [List.map_cons, List.sum_cons, ih, List.countP_cons]
    cases p x
    · simp
    · simp [Nat.mul_add, Nat.add_comm]

/-- Rules 1 and 3 add up over the rows and then over the columns (rule R244). -/
theorem sum_matrixLines (f : List Bool → Nat) (m : Matrix) (n : Nat) :
    ((matrixLines m n).map f).sum =
      sumTo n (fun r => f (rowLine m n r)) + sumTo n (fun c => f (columnLine m n c)) := by
  simp only [matrixLines, List.map_append, List.sum_append, List.map_map]
  rfl

theorem length_of_mem_matrixLines {m : Matrix} {n : Nat} {line : List Bool} (h : line ∈ matrixLines m n) :
    line.length = n := by
  rcases List.mem_append.1 h with h | h
  all_goals
    obtain ⟨i, -, rfl⟩ := List.mem_map.1 h
    exact (List.length_map _).trans List.length_range

/-- There are 2N lines, so a bound on what one line of N cells adds bounds their sum (rule R244). -/
theorem sum_matrixLines_le {f : List Bool → Nat} {k n : Nat} (m : Matrix)
    (h : ∀ line : List Bool, line.length = n → f line ≤ k) : ((matrixLines m n).map f).sum ≤ 2 * n * k := by
  have hle := List.sum_le_card_nsmul ((matrixLines m n).map f) k fun x hx => by
    obtain ⟨line, hline, rfl⟩ := List.mem_map.1 hx
    exact h line (length_of_mem_matrixLines hline)
  have hlen : ((matrixLines m n).map f).length = 2 * n := by simp [matrixLines, Nat.two_mul]
  rwa [hlen] at hle

/-! ### Rule 1, runs (rule R245) -/

theorem runPenalty_eq (len : Nat) : runPenalty len = if 5 ≤ len then len - 2 else 0 := by
  unfold runPenalty
  split <;> omega

theorem linePenalty1_spec (line : List Bool) : ∃ runs, cutsIntoRuns line runs ∧
    linePenalty1 line = (runs.map (fun p => if 5 ≤ p.2 then p.2 - 2 else 0)).sum := by
  obtain ⟨runs, hcut, hlengths⟩ := runLengths_spec line
  refine ⟨runs, hcut, ?_⟩
  rw [linePenalty1, hlengths, List.map_map]
  exact congrArg List.sum (List.map_congr_left fun p _ => runPenalty_eq p.2)

/-- A run adds less than its length, and the runs of a line are as long as the line. -/
theorem linePenalty1_le (line : List Bool) : linePenalty1 line ≤ line.length := by
  obtain ⟨runs, ⟨hline, -, -⟩, hsum⟩ := linePenalty1_spec line
  have hlen : line.length = (runs.map (fun p => p.2)).sum := by
    rw [hline, List.length_flatMap]
    simp only [List.length_replicate]
  rw [hsum, hlen]
  refine List.sum_le_sum fun p _ => ?_
  split <;> omega

theorem rule1_le (m : Matrix) (n : Nat) : rule1 m n ≤ 2 * n * n :=
  sum_matrixLines_le m fun line h => h ▸ linePenalty1_le line

/-! ### Rule 2, blocks (rule R246) -/

theorem blockPenalty_spec (m : Matrix) {n r c : Nat} (hr : r < n) (hc : c < n) :
    ∃ k w h, growsTo m n r c k w h ∧ blockPenalty m n r c = 3 * (w - 1) * (h - 1) := by
  obtain ⟨k, hboth, hk, hsquare, hsquare'⟩ := growBoth_spec m n r c n 1 (uniformBlock_one m hr hc) (by omega)
  obtain ⟨-, hwide, hwide'⟩ := growWidth_spec m n r c k n k hsquare (by omega)
  obtain ⟨-, htall, htall'⟩ := growHeight_spec m n r c _ n k hwide (by omega)
  refine ⟨k, _, _, ⟨hk, hsquare, hsquare', hwide, hwide', htall, htall'⟩, ?_⟩
  rw [blockPenalty, grownBlock, hboth]

/-- A rectangle stays inside N×N. -/
theorem blockPenalty_le (m : Matrix) {n r c : Nat} (hr : r < n) (hc : c < n) :
    blockPenalty m n r c ≤ 3 * (n - 1 - c) * (n - 1 - r) := by
  obtain ⟨k, w, h, ⟨-, -, -, -, -, ⟨hheight, hwidth, -⟩, -⟩, hpen⟩ := blockPenalty_spec m hr hc
  rw [hpen]
  exact Nat.mul_le_mul (Nat.mul_le_mul_left 3 (by omega)) (by omega)

theorem rule2_eq (m : Matrix) (n : Nat) :
    rule2 m n = sumTo n (fun r => sumTo n (fun c => blockPenalty m n r c)) := rfl

/-- The bounds of the anchors add up to three times the square of the sum of 0..N−1. -/
theorem rule2_le (m : Matrix) (n : Nat) : 4 * rule2 m n ≤ 3 * (n * (n - 1)) ^ 2 := by
  have hgauss : sumTo n (fun i => n - 1 - i) * 2 = n * (n - 1) := by
    rw [sumTo_eq_sum_range, Finset.sum_range_reflect (fun i => i), Finset.sum_range_id_mul_two]
  have hle : rule2 m n ≤ sumTo n (fun r => sumTo n (fun c => 3 * (n - 1 - c) * (n - 1 - r))) :=
    sumTo_le_sumTo fun r hr => sumTo_le_sumTo fun c hc => blockPenalty_le m hr hc
  have hprod : sumTo n (fun r => sumTo n (fun c => 3 * (n - 1 - c) * (n - 1 - r))) =
      3 * sumTo n (fun i => n - 1 - i) ^ 2 := by
    simp only [sumTo_eq_sum_range, ← Finset.sum_mul, ← Finset.mul_sum, Nat.pow_two, Nat.mul_assoc]
  calc 4 * rule2 m n ≤ 4 * (3 * sumTo n (fun i => n - 1 - i) ^ 2) := Nat.mul_le_mul_left 4 (hle.trans_eq hprod)
    _ = 3 * (n * (n - 1)) ^ 2 := by rw [← hgauss]; ring

/-! ### Rule 3, patterns (rule R247) -/

/-- The window of a line at an offset where 11 cells are left. -/
theorem take_drop_map_range (f : Nat → Bool) {n i : Nat} (hi : i < n - 10) :
    (((List.range n).map f).drop i).take 11 = (List.range 11).map (fun j => f (i + j)) := by
  refine List.ext_getElem ?_ fun j _ _ => ?_
  · simp only [List.length_take, List.length_drop, List.length_map, List.length_range]
    omega
  · simp

theorem linePenalty3_map_range (f : Nat → Bool) (n : Nat) :
    linePenalty3 n ((List.range n).map f) = sumTo (n - 10) (fun i => if patternAt f i then 40 else 0) := by
  rw [linePenalty3, ← List.countP_eq_length_filter, ← sum_map_ite]
  refine sumTo_congr fun i hi => ?_
  rw [windowMatches, take_drop_map_range f hi]
  rfl

theorem linePenalty3_le (n : Nat) (line : List Bool) : linePenalty3 n line ≤ 40 * (n - 10) := by
  have hle := List.length_filter_le (windowMatches line) (List.range (n - 10))
  rw [List.length_range] at hle
  exact Nat.mul_le_mul_left 40 hle

theorem rule3_eq (m : Matrix) (n : Nat) : rule3 m n =
    sumTo n (fun r => sumTo (n - 10) (fun i => if patternAt (fun c => Matrix.get m r c) i then 40 else 0)) +
      sumTo n (fun c => sumTo (n - 10) (fun i => if patternAt (fun r => Matrix.get m r c) i then 40 else 0)) := by
  simp only [rule3, sum_matrixLines, rowLine, columnLine, linePenalty3_map_range]

theorem rule3_le (m : Matrix) (n : Nat) : rule3 m n ≤ 2 * n * (40 * (n - 10)) :=
  sum_matrixLines_le m fun line _ => linePenalty3_le n line

/-! ### Rule 4, balance (rule R248) -/

theorem darkCount_eq (m : Matrix) (n : Nat) :
    darkCount m n = sumTo n (fun r => sumTo n (fun c => (Matrix.get m r c).toNat)) := by
  refine sumTo_congr fun r _ => ?_
  rw [rowLine, List.count, List.countP_map, ← Nat.one_mul (List.countP ..), ← sum_map_ite]
  refine sumTo_congr fun c _ => ?_
  rw [Function.comp_apply]
  cases Matrix.get m r c <;> rfl

theorem darkCount_le (m : Matrix) (n : Nat) : darkCount m n ≤ n ^ 2 := by
  have hrow (r : Nat) : (rowLine m n r).count true ≤ n := List.count_le_length.trans_eq (by simp [rowLine])
  have hle := List.sum_le_card_nsmul ((List.range n).map fun r => (rowLine m n r).count true) n (by simp [hrow])
  rwa [List.length_map, List.length_range, smul_eq_mul, ← Nat.pow_two] at hle

/-- Rule 4 is ten times the distance of q = ⌊20·D/N²⌋ or q + 1 from 10, the nearer one. -/
theorem balancePenalty_eq (d n : Nat) : balancePenalty d n =
    10 * min (dist (20 * d / n ^ 2) 10) (dist (20 * d / n ^ 2 + 1) 10) := by
  simp only [balancePenalty, dist]
  omega

/-- Settles O40: q is at most 20, and each clause says where it lies. -/
theorem balancePenaltyValues : Obligations.BalancePenaltyValues := by
  intro d n hn hd
  have hpos : 0 < n ^ 2 := Nat.pow_pos hn
  have hq : 20 * d / n ^ 2 ≤ 20 := Nat.div_le_of_le_mul (by omega)
  rw [balancePenalty_eq]
  refine ⟨Nat.mul_mod_right 10 _, ?_, fun hlow hhigh => ?_, fun hempty => ?_, fun hfull => ?_⟩
  · generalize 20 * d / n ^ 2 = q at hq
    simp only [dist]
    omega
  · have hq9 : 9 ≤ 20 * d / n ^ 2 := (Nat.le_div_iff_mul_le hpos).2 (by omega)
    have hq11 : 20 * d / n ^ 2 < 11 := (Nat.div_lt_iff_lt_mul hpos).2 (by omega)
    simp only [dist]
    omega
  · rw [hempty, Nat.mul_zero, Nat.zero_div]
    rfl
  · rw [hfull, Nat.mul_div_cancel 20 hpos]
    rfl

theorem rule4_le (m : Matrix) {n : Nat} (hn : 0 < n) : rule4 m n ≤ 100 := by
  obtain ⟨-, hle, -⟩ := balancePenaltyValues (darkCount m n) n hn (darkCount_le m n)
  exact hle

/-! ### The total score (rule R250) -/

theorem Version.side_pos (v : Version) : 0 < v.side := by
  rw [Version.side]
  omega

/-- Settles O39, by a bound for each rule; rule 2 has the largest, 494508 at N = 29. -/
theorem scoresFitTheirRegister : Obligations.ScoresFitTheirRegister := by
  intro m v
  have h1 := rule1_le m v.side
  have h2 := rule2_le m v.side
  have h3 := rule3_le m v.side
  have h4 := rule4_le m v.side_pos
  rw [score]
  cases v <;> simp only [Version.side, Version.num] at h1 h2 h3 h4 ⊢ <;> omega

theorem candidateScore_eq (b : Matrix) (v : Version) (m : Fin 8) : candidateScore b v m =
    rule1 (candidate b v m) v.side + rule2 (candidate b v m) v.side + rule3 (candidate b v m) v.side +
      balancePenalty (sumTo v.side (fun r => sumTo v.side (fun c =>
        (Matrix.get (candidate b v m) r c).toNat))) v.side := by
  rw [candidateScore, score, rule4, darkCount_eq]

/-! ### MASKSC (rules R240, R252) -/

theorem exec_masksc_noVersion {s : State} (hv : s.sel.version = none) :
    exec .masksc s = .next (s.takeFault .sequenceError) := by
  obtain ⟨-, heq⟩ | ⟨v, hv', -⟩ := maskscStage_cases s
  · exact congrArg StageResult.finish heq
  · simp [hv] at hv'

/-- What MASKSC without a fault leaves: the candidates in memory, their scores and the winner. -/
def State.scored (s : State) (v : Version) : State :=
  { s with
    mem := (s.writeCandidates (s.readMatrix .base) v).mem
    score := Vector.ofFn (fun m => BitVec.ofNat 32 (candidateScore (s.readMatrix .base) v m))
    winnerMask := selectMask (candidateScore (s.readMatrix .base) v)
    winnerValid := true
    done := true
    inflight := none }

theorem exec_masksc_version {s : State} {v : Version} (hv : s.sel.version = some v) :
    exec .masksc s = .next (s.scored v) := by
  obtain ⟨hnone, -⟩ | ⟨w, hw, heq⟩ := maskscStage_cases s
  · simp [hv] at hnone
  · obtain rfl : v = w := Option.some.inj (hv.symm.trans hw)
    rw [State.writeCandidates_eq] at heq
    exact congrArg StageResult.finish heq

theorem State.readByte_scored (s : State) (v : Version) (a : Nat) :
    (s.scored v).readByte a = (s.writeCandidates (s.readMatrix .base) v).readByte a := by
  rw [State.writeCandidates_eq]
  rfl

/-- A SCORE register holds its candidate's score exactly (rule R250). -/
theorem State.toNat_score_scored (s : State) (v : Version) (m : Fin 8) :
    ((s.scored v).score[m]).toNat = candidateScore (s.readMatrix .base) v m := by
  have hlt : candidateScore (s.readMatrix .base) v m < 2 ^ 20 := scoresFitTheirRegister _ v
  simp only [State.scored, Fin.getElem_fin, Vector.getElem_ofFn, BitVec.toNat_ofNat]
  exact Nat.mod_eq_of_lt (hlt.trans (by decide))

/-- A candidate buffer holds its candidate (rules R226, R240). -/
theorem State.get_readMatrix_scored (s : State) (v : Version) (m : Fin 8) (r c : Nat) :
    Matrix.get ((s.scored v).readMatrix (.cand m)) r c =
      (decide (r < v.side) && decide (c < v.side) && candidateCell (s.readMatrix .base) v m r c) := by
  have hread := State.readMatrix_congr (s.writeCandidates (s.readMatrix .base) v) (s.scored v) (.cand m)
    fun x _ _ => s.readByte_scored v x
  rw [hread, State.get_readMatrix_writeCandidates, get_candidate]
  by_cases hr : r < v.side
  · have hside := v.side_le
    simp [hr, hr.trans_le hside]
  · simp [hr]

/-- Settles O36: MASKSC's two ways to end, and each rule in the form its own lemma gives it. -/
theorem maskscScoresCandidates : Obligations.MaskscScoresCandidates := by
  refine ⟨decode_encode .masksc, fun s => ⟨exec_masksc_noVersion, fun v hv => ?_⟩, candidateScore_eq,
    sum_matrixLines linePenalty1, linePenalty1_spec, rule2_eq, fun m n r c => blockPenalty_spec m, rule3_eq⟩
  refine ⟨s.scored v, exec_masksc_version hv, rfl, s.toNat_score_scored v, s.get_readMatrix_scored v,
    fun a ha => ?_⟩
  rw [State.readByte_scored]
  exact State.readByte_writeCandidates _ _ _ _ ha

/-- Settles O41: the scores are those of the candidates, which depend on the N×N cells alone. -/
theorem maskscDependsOnBaseAlone : Obligations.MaskscDependsOnBaseAlone := by
  intro s s' t t' v hv hv' hbase ht ht'
  have hscore : candidateScore (s.readMatrix .base) v = candidateScore (s'.readMatrix .base) v :=
    funext fun m => congrArg (fun b => score b v.side) (candidate_congr m hbase)
  cases ht.symm.trans (exec_masksc_version hv)
  cases ht'.symm.trans (exec_masksc_version hv')
  simp only [State.scored, hscore, and_self]

end Sys2Proof.Machine

namespace Sys2Proof.Machine

/-! ### The format cells (rule R272) -/

/-- Cell (r, c) carries bit i of the format string, in copy A or in copy B. -/
def IsFormatCell (n i r c : Nat) : Prop := (r, c) = formatCellA i ∨ (r, c) = formatCellB n i

/-- The format cells of each symbol lie in N×N (rules R226, R272). -/
theorem formatCells_lt_side (v : Version) : ∀ i < 15,
    (formatCellA i).1 < v.side ∧ (formatCellA i).2 < v.side ∧
      (formatCellB v.side i).1 < v.side ∧ (formatCellB v.side i).2 < v.side := by
  cases v <;> decide

/-- The thirty format cells of each symbol differ, so no cell carries two bits (rule R272). -/
theorem formatCells_distinct (v : Version) : ∀ i < 15, ∀ j < 15,
    (formatCellA i = formatCellA j → i = j) ∧ formatCellA i ≠ formatCellB v.side j ∧
      (formatCellB v.side i = formatCellB v.side j → i = j) := by
  cases v <;> decide

theorem IsFormatCell.lt_side {v : Version} {i r c : Nat} (h : IsFormatCell v.side i r c) (hi : i < 15) :
    r < v.side ∧ c < v.side := by
  obtain ⟨hrA, hcA, hrB, hcB⟩ := formatCells_lt_side v i hi
  rcases h with h | h
  · rw [← h] at hrA hcA
    exact ⟨hrA, hcA⟩
  · rw [← h] at hrB hcB
    exact ⟨hrB, hcB⟩

theorem IsFormatCell.unique {v : Version} {i j r c : Nat} (h : IsFormatCell v.side i r c)
    (h' : IsFormatCell v.side j r c) (hi : i < 15) (hj : j < 15) : i = j := by
  obtain ⟨hA, hAB, hB⟩ := formatCells_distinct v i hi j hj
  obtain ⟨-, hBA, -⟩ := formatCells_distinct v j hj i hi
  rcases h with h | h <;> rcases h' with h' | h'
  · exact hA (h.symm.trans h')
  · exact absurd (h.symm.trans h') hAB
  · exact absurd (h'.symm.trans h) hBA
  · exact hB (h.symm.trans h')

/-! ### place_format (rule R273) -/

@[simp] theorem length_placeFormatBit (n : Nat) (f : BitVec 15) (m : Matrix) (i : Nat) :
    (placeFormatBit n f m i).length = m.length := by
  simp [placeFormatBit]

section PlaceFormat

variable {v : Version} {f : BitVec 15} {m : Matrix} {is : List Nat} {i r c : Nat}

theorem get_placeFormatBit_of_not (h : ¬ IsFormatCell v.side i r c) :
    Matrix.get (placeFormatBit v.side f m i) r c = Matrix.get m r c := by
  obtain ⟨hA, hB⟩ := not_or.1 h
  rw [placeFormatBit, Matrix.get_set, if_neg, Matrix.get_set, if_neg]
  · rintro ⟨hr, hc, -⟩
    exact hA (Prod.ext hr hc)
  · rintro ⟨hr, hc, -⟩
    exact hB (Prod.ext hr hc)

theorem get_placeFormatBit (h : IsFormatCell v.side i r c) (hi : i < 15) (hm : m.length = 29) :
    Matrix.get (placeFormatBit v.side f m i) r c = f.getLsbD i := by
  obtain ⟨hr, hc⟩ := h.lt_side hi
  have hside := v.side_le
  rw [placeFormatBit, Matrix.get_set, Matrix.get_set, Matrix.length_set]
  have hbound : r < 29 ∧ c < 29 := by omega
  rcases h with h | h <;> simp [← h, hm, hbound]

theorem get_foldl_placeFormatBit_of_not (h : ∀ i ∈ is, ¬ IsFormatCell v.side i r c) :
    Matrix.get (is.foldl (placeFormatBit v.side f) m) r c = Matrix.get m r c := by
  induction is generalizing m with
  | nil => rfl
  | cons i is ih =>
    obtain ⟨hi, his⟩ := List.forall_mem_cons.1 h
    rw [List.foldl_cons, ih his, get_placeFormatBit_of_not hi]

/-- A bit once placed stays: no later bit has its cell. -/
theorem get_foldl_placeFormatBit (h : IsFormatCell v.side i r c) (his : ∀ j ∈ is, j < 15) (hi : i ∈ is)
    (hm : m.length = 29) : Matrix.get (is.foldl (placeFormatBit v.side f) m) r c = f.getLsbD i := by
  induction is generalizing m with
  | nil => cases hi
  | cons j js ih =>
    obtain ⟨hj, hjs⟩ := List.forall_mem_cons.1 his
    rw [List.foldl_cons]
    by_cases hmem : i ∈ js
    · exact ih hjs hmem (by rw [length_placeFormatBit, hm])
    · obtain rfl : i = j := (List.mem_cons.1 hi).resolve_right hmem
      rw [get_foldl_placeFormatBit_of_not, get_placeFormatBit h hj hm]
      intro k hk hcell
      exact hmem (h.unique hcell hj (hjs k hk) ▸ hk)

end PlaceFormat

/-! ### FMT (rule R270) -/

section Fmt

variable {cand : Matrix} {v : Version} {f : BitVec 15} {r c : Nat}

theorem get_finishedMatrix_format {i : Nat} (h : IsFormatCell v.side i r c) (hi : i < 15) :
    Matrix.get (finishedMatrix cand v f) r c = f.getLsbD i :=
  get_foldl_placeFormatBit h (fun _ => List.mem_range.1) (List.mem_range.2 hi) (Matrix.length_ofCells ..)

theorem get_finishedMatrix_of_not (h : ∀ i < 15, ¬ IsFormatCell v.side i r c) :
    Matrix.get (finishedMatrix cand v f) r c =
      (decide (r < v.side) && decide (c < v.side) && Matrix.get cand r c) := by
  have hside := v.side_le
  rw [finishedMatrix, placeFormat, get_foldl_placeFormatBit_of_not fun i hi => h i (List.mem_range.1 hi),
    Matrix.get_ofCells]
  by_cases hr : r < v.side
  · by_cases hc : c < v.side
    · simp [hr, hc, hr.trans_le hside, hc.trans_le hside]
    · simp [hc]
  · simp [hr]

/-- Every format cell lies in N×N, so the finished symbol is 0 outside it (rule R226). -/
theorem get_finishedMatrix_outside (h : v.side ≤ r ∨ v.side ≤ c) :
    Matrix.get (finishedMatrix cand v f) r c = false := by
  rw [get_finishedMatrix_of_not fun i hi hcell => by have := hcell.lt_side hi; omega]
  rcases h with h | h <;> simp [Nat.not_lt.2 h]

end Fmt

/-- OUT reads back the finished symbol: it has no dark cell past row 28. -/
theorem get_readMatrix_writeMatrix_finishedMatrix (s : State) (cand : Matrix) (v : Version) (f : BitVec 15)
    (r c : Nat) : Matrix.get ((s.writeMatrix .out (finishedMatrix cand v f)).readMatrix .out) r c =
      Matrix.get (finishedMatrix cand v f) r c := by
  rw [State.get_readMatrix_writeMatrix]
  by_cases hr : r < 29
  · simp [hr]
  · have hside := v.side_le
    rw [get_finishedMatrix_outside (.inl (by omega)), Bool.and_false]

/-- Settles O42: by FMT's two ways to end, and what each kind of cell of the finished symbol is. -/
theorem fmtWritesFormatString : Obligations.FmtWritesFormatString := by
  refine ⟨decode_encode .fmt, fun s => ?_⟩
  obtain ⟨hno, heq⟩ | ⟨w, hw, hwin, heq⟩ := fmtStage_cases s
  · refine ⟨fun _ => congrArg StageResult.finish heq, fun v f hv hwin => ?_⟩
    simp [hv, hwin] at hno
  · refine ⟨fun hno => by simp [hw, hwin] at hno, ?_⟩
    rintro v f hv - rfl
    obtain rfl : v = w := Option.some.inj (hv.symm.trans hw)
    have hread := get_readMatrix_writeMatrix_finishedMatrix s (s.readMatrix (.cand s.winnerMask)) v
      (formatString s.sel.level s.winnerMask)
    refine ⟨_, congrArg StageResult.finish heq, rfl, fun i hi r c hcell => ?_, fun r c hr hc h => ?_,
      fun r c h => ?_, fun a ha => ?_⟩
    · exact (hread r c).trans (get_finishedMatrix_format hcell hi)
    · refine (hread r c).trans ((get_finishedMatrix_of_not fun i hi => not_or.2 (h i hi)).trans ?_)
      simp [hr, hc]
    · exact (hread r c).trans (get_finishedMatrix_outside h)
    · exact (s.readByte_writeMatrix .out _ a).trans (if_neg ha)

end Sys2Proof.Machine

namespace Sys2Proof.Machine

/-! ### The word in flight does not matter to a stage (rules R40, R281) -/

/-- The state with another word in flight, under the RS_CLEAN bit it has. -/
def State.setWord (s : State) (w : Word) : State :=
  { s with cmd := w, lastOp := CommandWord.opc w, inflight := some { word := w, clean := s.clean } }

/-- How a stage would end with another word in flight. -/
def StageResult.setWord (r : StageResult) (w : Word) : StageResult :=
  match r with
  | .ok s => .ok (s.setWord w)
  | .fault c s => .fault c (s.setWord w)

theorem StageResult.setWord_andThen {r : StageResult} {f : State → StageResult} {w : Word}
    (hf : ∀ s : State, f (s.setWord w) = (f s).setWord w) :
    (r.setWord w).andThen f = (r.andThen f).setWord w := by
  cases r with
  | ok s => exact hf s
  | fault c s => rfl

/-- The registers MASKSC writes, for these scores (rules R240, R251). -/
def State.withScores (s : State) (sc : Fin 8 → Nat) : State :=
  { s with
    score := Vector.ofFn (fun m => BitVec.ofNat 32 (sc m))
    winnerMask := selectMask sc
    winnerValid := true }

theorem maskscStage_version {s : State} {v : Version} (hv : s.sel.version = some v) :
    maskscStage s = .ok ((s.writeCandidates (s.readMatrix .base) v).withScores
      (candidateScore (s.readMatrix .base) v)) := by
  rw [maskscStage, hv]
  rfl

@[simp] theorem State.setWord_sel (s : State) (w : Word) : (s.setWord w).sel = s.sel := rfl

section SetWord

variable (w : Word) (s : State)

theorem gflogStage_setWord (a : Byte) : gflogStage a (s.setWord w) = (gflogStage a s).setWord w := by
  rcases gflogStage_cases a s with ⟨h, heq⟩ | ⟨h, heq⟩ <;> rw [heq, gflogStage]
  · exact if_pos h
  · exact if_neg h

theorem rsencStage_setWord (k e : Byte) : rsencStage k e (s.setWord w) = (rsencStage k e s).setWord w := by
  unfold rsencStage
  split
  · rfl
  · split <;> rfl

theorem selectStage_setWord (lc : Byte) : selectStage lc (s.setWord w) = (selectStage lc s).setWord w := by
  obtain ⟨c, h⟩ | ⟨x, h⟩ := selectStage_decided lc s.textLen s.text
  · rw [h s rfl rfl, h (s.setWord w) rfl rfl]
    rfl
  · rw [h s rfl rfl, h (s.setWord w) rfl rfl]
    rfl

theorem bitstrStage_setWord : bitstrStage (s.setWord w) = (bitstrStage s).setWord w := by
  obtain ⟨hv, heq⟩ | ⟨v, hv, hlong, heq⟩ | ⟨v, hv, hlong, hc, heq⟩ | ⟨v, hv, hlong, hc, hd, heq⟩ |
    ⟨v, bs, pre, hv, hlong, hc, hd, heq⟩ := bitstrStage_cases s <;> rw [heq]
  · exact bitstrStage_noVersion (s := s.setWord w) hv
  · exact bitstrStage_tooLong (s := s.setWord w) hv (State.textTooLong_iff.1 hlong)
  · exact bitstrStage_badCharacter (s := s.setWord w) hv (State.not_textTooLong_iff.1 hlong) hc
  · exact bitstrStage_overflow (s := s.setWord w) hv (State.not_textTooLong_iff.1 hlong) hc hd
  · exact bitstrStage_fits (s := s.setWord w) hv (State.not_textTooLong_iff.1 hlong) hc hd

theorem eccilStage_setWord : eccilStage (s.setWord w) = (eccilStage s).setWord w := by
  obtain ⟨hv, heq⟩ | ⟨v, hv, heq⟩ := eccilStage_cases s <;> rw [heq, eccilStage, State.setWord_sel, hv] <;> rfl

theorem buildStage_setWord : buildStage (s.setWord w) = (buildStage s).setWord w := by
  obtain ⟨hv, heq⟩ | ⟨v, hv, hlen, heq⟩ | ⟨v, hv, hlen, heq⟩ := buildStage_cases s <;>
    rw [heq, buildStage, State.setWord_sel, hv]
  · rfl
  · exact if_pos hlen
  · exact if_neg (not_not.2 hlen)

theorem State.writeCandidates_setWord (b : Matrix) (v : Version) :
    (s.setWord w).writeCandidates b v = (s.writeCandidates b v).setWord w :=
  List.foldl_hom (State.setWord · w) fun _ _ => rfl

theorem State.withScores_setWord (sc : Fin 8 → Nat) :
    (s.setWord w).withScores sc = (s.withScores sc).setWord w := rfl

theorem maskscStage_setWord : maskscStage (s.setWord w) = (maskscStage s).setWord w := by
  cases hv : s.sel.version with
  | none => rw [maskscStage, maskscStage, State.setWord_sel, hv, StageResult.setWord]
  | some v =>
    have hbase : (s.setWord w).readMatrix .base = s.readMatrix .base := rfl
    rw [maskscStage_version hv, maskscStage_version (s := s.setWord w) hv, hbase, State.writeCandidates_setWord,
      State.withScores_setWord, StageResult.setWord]

theorem fmtStage_setWord : fmtStage (s.setWord w) = (fmtStage s).setWord w := by
  obtain ⟨hno, heq⟩ | ⟨v, hv, hwin, heq⟩ := fmtStage_cases s <;> rw [heq, fmtStage, State.setWord_sel]
  · cases hv : s.sel.version with
    | none => rfl
    | some v => exact if_pos (hno.resolve_left (by simp [hv]))
  · rw [hv]
    exact if_neg (ne_of_eq_of_ne hwin (by decide))

theorem encodeStage_setWord (lc : Byte) : encodeStage lc (s.setWord w) = (encodeStage lc s).setWord w := by
  rw [encodeStage, encodeStage, selectStage_setWord, StageResult.setWord_andThen (bitstrStage_setWord w),
    StageResult.setWord_andThen (eccilStage_setWord w), StageResult.setWord_andThen (buildStage_setWord w),
    StageResult.setWord_andThen (maskscStage_setWord w), StageResult.setWord_andThen (fmtStage_setWord w)]

/-- A command does what its decoded fields say: its stage does not read CMD, LAST_OP or the word in flight. -/
theorem stageOf_setWord (i : Instr) : stageOf i (s.setWord w) = (stageOf i s).setWord w := by
  cases i with
  | nop => rfl
  | gfmul a b => rfl
  | gflog a => exact gflogStage_setWord w s a
  | gfexp e => rfl
  | rsenc k e => exact rsencStage_setWord w s k e
  | select lc => exact selectStage_setWord w s lc
  | bitstr => exact bitstrStage_setWord w s
  | eccil => exact eccilStage_setWord w s
  | build => exact buildStage_setWord w s
  | masksc => exact maskscStage_setWord w s
  | fmt => exact fmtStage_setWord w s
  | encode lc => exact encodeStage_setWord w s lc

end SetWord

/-! ### Stages one after another (rule R280) -/

/-- The stages of a list of commands, up to the first fault. -/
def stageSequence : List Instr → State → StageResult
  | [], s => .ok s
  | i :: is, s => (stageOf i s).andThen (stageSequence is)

theorem StageResult.andThen_assoc (r : StageResult) (f g : State → StageResult) :
    (r.andThen f).andThen g = r.andThen fun s => (f s).andThen g := by
  cases r <;> rfl

theorem StageResult.andThen_ok_right (r : StageResult) : r.andThen .ok = r := by
  cases r <;> rfl

theorem stageSequence_singleton (i : Instr) (s : State) : stageSequence [i] s = stageOf i s :=
  (stageOf i s).andThen_ok_right

/-- ENCODE is its six stages. -/
theorem encodeStage_eq_stageSequence (lc : Byte) (s : State) :
    encodeStage lc s = stageSequence [.select lc, .bitstr, .eccil, .build, .masksc, .fmt] s := by
  have hlast : fmtStage = stageSequence [.fmt] := funext fun s => (stageSequence_singleton .fmt s).symm
  simp only [encodeStage, StageResult.andThen_assoc, hlast]
  rfl

/-! ### A command from acceptance to completion (rules R104, R105) -/

/-- The state the completion step leaves. -/
def StageResult.completed : StageResult → State
  | .ok s => s.complete
  | .fault c s => s.takeFault c

theorem StageResult.finish_eq_completed (r : StageResult) : r.finish = .next r.completed := by
  cases r <;> rfl

theorem runCommand_eq_completed (i : Instr) (s : State) :
    runCommand i s = (stageOf i (s.accept (encode i))).completed := by
  rw [runCommand, exec_eq_finish, StageResult.finish_eq_completed]

theorem isPipelineWord_encode (i : Instr) : isPipelineWord (encode i) = i.isPipeline := by
  rw [isPipelineWord, decode_encode]

/-- Acceptance of one pipeline word or another differs in the word alone. -/
theorem State.setWord_accept (s : State) {w w' : Word} (hw : isPipelineWord w = true)
    (hw' : isPipelineWord w' = true) : (s.accept w).setWord w' = s.accept w' := by
  simp [State.accept, State.setWord, State.clean, hw, hw']

/-- A command that ran without a fault, and without making an output valid, leaves the state in which the next one
would find itself had both been accepted as one. -/
theorem State.setWord_eq_accept_complete {s x : State} {w w' : Word} (hx : (s.accept w).ChangesOutputsOnly x)
    (hout : x.outValid = false) (hw' : isPipelineWord w' = true) : x.setWord w' = x.complete.accept w' := by
  obtain ⟨hdone, herr, hcode⟩ := hx.status
  have hclean : x.clean = x.rsClean := by
    rw [hx]
    rfl
  simp_all [State.accept, State.setWord, State.complete]

/-- The two states agree but for CMD and LAST_OP. -/
def State.EqUpToWord (s t : State) : Prop := { s with cmd := t.cmd, lastOp := t.lastOp } = t

theorem StageResult.completed_setWord (r : StageResult) (w : Word) :
    (r.setWord w).completed.EqUpToWord r.completed := by
  cases r <;> rfl

/-- Pipeline commands issued one after another end as one command that runs their stages, as long as only the last
one makes an output valid (rule R281). -/
theorem stageSequence_eqUpToWord {is : List Instr} {last : Instr} {w : Word} (hw : isPipelineWord w = true)
    (hpipe : ∀ i ∈ is ++ [last], i.isPipeline = true)
    (hout : ∀ i ∈ is, ∀ s, (stageOf i s).state.outValid = s.outValid) (s : State) :
    (stageSequence (is ++ [last]) (s.accept w)).completed.EqUpToWord (runStages (is ++ [last]) s) := by
  have hstage {i : Instr} (hi : i.isPipeline = true) (s : State) :
      stageOf i (s.accept w) = (stageOf i (s.accept (encode i))).setWord w := by
    rw [← s.setWord_accept ((isPipelineWord_encode i).trans hi) hw, stageOf_setWord]
  induction is generalizing s with
  | nil =>
    have hlast : runStages [last] s = runCommand last s := ite_self _
    rw [List.nil_append, hlast, stageSequence_singleton, hstage (hpipe last (by simp)), runCommand_eq_completed]
    exact StageResult.completed_setWord _ w
  | cons i is ih =>
    have hi : i.isPipeline = true := hpipe i (by simp)
    have hx := stageOf_changesOutputsOnly i (s.accept (encode i))
    have hvalid := hout i (by simp) (s.accept (encode i))
    rw [List.cons_append, stageSequence, runStages, hstage hi, runCommand_eq_completed]
    generalize stageOf i (s.accept (encode i)) = r at hx hvalid ⊢
    cases r with
    | ok x =>
      have herr : x.complete.err = false := hx.status.2.1
      have hnone : x.outValid = false := hvalid.trans (by simp [isPipelineWord_encode, hi])
      rw [StageResult.completed, herr, StageResult.setWord, State.setWord_eq_accept_complete (x := x) hx hnone hw]
      exact ih (fun j hj => hpipe j (List.mem_cons_of_mem i hj)) (fun j hj => hout j (List.mem_cons_of_mem i hj)) _
    | fault c x => exact StageResult.completed_setWord (.fault c x) w

/-- The stages before FMT leave OUT_VALID alone (rules R36, R270). -/
theorem outValid_stageOf_before_fmt {lc : Byte} : ∀ i ∈ [.select lc, .bitstr, .eccil, .build, .masksc],
    ∀ s, (stageOf i s).state.outValid = s.outValid := by
  simp only [List.forall_mem_cons, List.not_mem_nil, false_imp_iff, implies_true, and_true]
  refine ⟨fun s => ?_, fun s => ?_, fun s => ?_, fun s => ?_, fun s => ?_⟩ <;> rw [stageOf]
  · rcases selectStage_cases lc s with
      ⟨-, heq⟩ | ⟨l, -, -, heq⟩ | ⟨l, -, -, -, heq⟩ | ⟨l, v, -, -, -, heq⟩ <;> rw [heq] <;> rfl
  · rcases bitstrStage_cases s with ⟨-, heq⟩ | ⟨v, -, -, heq⟩ | ⟨v, -, -, -, heq⟩ | ⟨v, -, -, -, -, heq⟩ |
      ⟨v, bs, pre, -, -, -, -, heq⟩ <;> rw [heq] <;> rfl
  · rcases eccilStage_cases s with ⟨-, heq⟩ | ⟨v, -, heq⟩ <;> rw [heq] <;> rfl
  · rcases buildStage_cases s with ⟨-, heq⟩ | ⟨v, -, -, heq⟩ | ⟨v, -, -, heq⟩ <;> rw [heq] <;> rfl
  · rcases maskscStage_cases s with ⟨-, heq⟩ | ⟨v, -, heq⟩ <;> rw [heq]
    · rfl
    · rw [State.writeCandidates_eq]
      rfl

/-- Settles O43: ENCODE is one command that runs the six commands' stages. -/
theorem encodeEqualsItsStages : Obligations.EncodeEqualsItsStages := by
  rintro lc s t - rfl
  rw [runCommand_eq_completed, stageOf, encodeStage_eq_stageSequence]
  exact stageSequence_eqUpToWord (last := .fmt) (isPipelineWord_encode (.encode lc)) (by simp [Instr.isPipeline])
    outValid_stageOf_before_fmt s

end Sys2Proof.Machine

namespace Sys2Proof.Machine

/-! ### BITSTR on a text within the capacity (rules R180, R185) -/

theorem bitstrStage_of_le_capacity {s : State} {v : Version} (hv : s.sel.version = some v)
    (hlen : s.textLen.toNat ≤ 128) (hcap : s.textLen.toNat ≤ capacity s.sel.mode v s.sel.level) :
    (charsOk s.sel.mode (foldText s.sel.mode s.text) = false ∧ bitstrStage s = .fault .invalidCharacter s) ∨
      ∃ t, bitstrStage s = .ok t ∧ t.sel = s.sel := by
  cases hc : charsOk s.sel.mode (foldText s.sel.mode s.text) with
  | false => exact .inl ⟨rfl, bitstrStage_badCharacter hv hlen hc⟩
  | true =>
    obtain ⟨⟨bs, pre⟩, hd⟩ := Option.ne_none_iff_exists'.1 (dataStream_ne_none (s.length_text.trans_le hcap))
    exact .inr ⟨_, bitstrStage_fits hv hlen hc hd, rfl⟩

/-- A text of encodable characters passes the check in its own mode (rules R173, R181, R182). -/
theorem charsOk_foldText_modeOfText {t : List Byte} (h : ∀ b ∈ t, encodableByte b = true) :
    charsOk (modeOfText t) (foldText (modeOfText t) t) = true := by
  rw [modeOfText]
  split
  case isTrue hdigits => exact hdigits
  case isFalse => simpa [charsOk, foldText, encodableByte] using h

/-! ### The stages after BITSTR (rules R280, R281) -/

/-- ECCIL on a selected version leaves STREAM_LEN at the length of its path (rules R200, R202). -/
theorem eccilStage_version {s : State} {v : Version} (hv : s.sel.version = some v) :
    ∃ t, eccilStage s = .ok t ∧ t.sel = s.sel ∧ t.streamLen.toNat = pathLength v := by
  obtain ⟨hnone, -⟩ | ⟨w, hw, heq⟩ := eccilStage_cases s
  · simp [hv] at hnone
  · obtain rfl : v = w := Option.some.inj (hv.symm.trans hw)
    refine ⟨_, heq, rfl, ?_⟩
    obtain ⟨-, -, -, hlen⟩ := finalStreamFillsPath v s.sel.level s.clean
      (s.readBuffer .data (dataCodewords v s.sel.level)) (by simp [State.readBuffer, State.readBytes])
    have hmax := pathLength_le v
    simp only [hlen]
    exact Nat.mod_eq_of_lt (by omega)

theorem buildStage_version {s : State} {v : Version} (hv : s.sel.version = some v)
    (hlen : s.streamLen.toNat = pathLength v) : ∃ t, buildStage s = .ok t ∧ t.sel = s.sel := by
  obtain ⟨hnone, -⟩ | ⟨w, hw, hne, -⟩ | ⟨w, -, -, heq⟩ := buildStage_cases s
  · simp [hv] at hnone
  · obtain rfl : v = w := Option.some.inj (hv.symm.trans hw)
    exact absurd hlen hne
  · exact ⟨_, heq, rfl⟩

theorem maskscStage_winner {s : State} {v : Version} (hv : s.sel.version = some v) :
    ∃ t, maskscStage s = .ok t ∧ t.sel = s.sel ∧ t.winnerValid = true := by
  refine ⟨_, maskscStage_version hv, ?_, rfl⟩
  rw [State.writeCandidates_eq]
  rfl

/-- What FMT leaves, and so ENCODE: a valid output for these version, mode and level (rules R270, R280). -/
structure State.Finished (s : State) (x : Sel) : Prop where
  sel : s.sel = x
  winnerValid : s.winnerValid = true
  outValid : s.outValid = true
  format : s.format = formatString x.level s.winnerMask

theorem fmtStage_winner {s : State} {v : Version} (hv : s.sel.version = some v) (hwin : s.winnerValid = true) :
    ∃ t, fmtStage s = .ok t ∧ t.Finished s.sel := by
  obtain ⟨hno, -⟩ | ⟨w, -, -, heq⟩ := fmtStage_cases s
  · simp [hv, hwin] at hno
  · exact ⟨_, heq, rfl, hwin, rfl, rfl⟩

/-- On a selected version no stage after BITSTR faults. -/
theorem stageSequence_after_bitstr {s : State} {v : Version} (hv : s.sel.version = some v) :
    ∃ t, stageSequence [.eccil, .build, .masksc, .fmt] s = .ok t ∧ t.Finished s.sel := by
  obtain ⟨s₁, heccil, hsel₁, hlen⟩ := eccilStage_version hv
  have hv₁ : s₁.sel.version = some v := by rw [hsel₁, hv]
  obtain ⟨s₂, hbuild, hsel₂⟩ := buildStage_version hv₁ hlen
  have hv₂ : s₂.sel.version = some v := by rw [hsel₂, hv₁]
  obtain ⟨s₃, hmasksc, hsel₃, hwin⟩ := maskscStage_winner hv₂
  have hv₃ : s₃.sel.version = some v := by rw [hsel₃, hv₂]
  obtain ⟨t, hfmt, ht⟩ := fmtStage_winner hv₃ hwin
  rw [hsel₃, hsel₂, hsel₁] at ht
  exact ⟨t, by simp [stageSequence, stageOf, heccil, hbuild, hmasksc, hfmt], ht⟩

/-! ### ENCODE (rule R280) -/

theorem encodeStage_of_selectStage_fault {lc : Byte} {s : State} {c : FaultCode}
    (h : selectStage lc s = .fault c s) : encodeStage lc s = .fault c s := by
  rw [encodeStage_eq_stageSequence, stageSequence, stageOf, h, StageResult.andThen_fault]

/-- After a SELECT without a fault the text's characters alone decide whether ENCODE faults. -/
theorem encodeStage_selected {lc : Byte} {s : State} {l : Level} {v : Version} (hl : levelOfByte lc = some l)
    (hlen : s.textLen.toNat ≤ 128) (hv : smallestVersion (modeOfText s.text) l s.textLen.toNat = some v) :
    (charsOk (modeOfText s.text) (foldText (modeOfText s.text) s.text) = false ∧
      ∃ u, encodeStage lc s = .fault .invalidCharacter u ∧ u.outValid = s.outValid) ∨
    ∃ t, encodeStage lc s = .ok t ∧
      t.Finished { version := some v, mode := modeOfText s.text, level := l } := by
  rw [encodeStage_eq_stageSequence, stageSequence, stageOf, selectStage_version hl hlen hv, StageResult.andThen_ok,
    stageSequence, stageOf]
  set u : State := { s with
    sel := { version := some v, mode := modeOfText s.text, level := l }
    winnerValid := false }
  obtain ⟨hc, heq⟩ | ⟨w, heq, hsel⟩ :=
    bitstrStage_of_le_capacity (s := u) rfl hlen (le_capacity_of_smallestVersion hv)
  · exact .inl ⟨hc, u, by rw [heq, StageResult.andThen_fault], rfl⟩
  · rw [heq, StageResult.andThen_ok]
    have hafter := stageSequence_after_bitstr (s := w) (v := v) (by rw [hsel])
    rw [hsel] at hafter
    exact .inr hafter

/-- ENCODE's faults are SELECT's and one of BITSTR's, or it finishes. -/
theorem encodeStage_cases (lc : Byte) (s : State) :
    (∃ c u, encodeStage lc s = .fault c u ∧
      (c = .invalidLevel ∨ c = .capacityExceeded ∨ c = .invalidCharacter) ∧ u.outValid = s.outValid) ∨
    ∃ t x, encodeStage lc s = .ok t ∧ t.Finished x := by
  obtain ⟨-, heq⟩ | ⟨l, -, -, heq⟩ | ⟨l, -, -, -, heq⟩ | ⟨l, v, hl, hlong, hv, -⟩ := selectStage_cases lc s
  · exact .inl ⟨_, s, encodeStage_of_selectStage_fault heq, by simp, rfl⟩
  · exact .inl ⟨_, s, encodeStage_of_selectStage_fault heq, by simp, rfl⟩
  · exact .inl ⟨_, s, encodeStage_of_selectStage_fault heq, by simp, rfl⟩
  · obtain ⟨-, u, heq, hout⟩ | ⟨t, heq, ht⟩ := encodeStage_selected hl (State.not_textTooLong_iff.1 hlong) hv
    · exact .inl ⟨_, u, heq, by simp, hout⟩
    · exact .inr ⟨t, _, heq, ht⟩

/-- Settles O44: SELECT finds a version, the characters pass BITSTR's check, and no later stage faults. -/
theorem encodeSucceedsOnEncodableText : Obligations.EncodeSucceedsOnEncodableText := by
  intro lc s l hl hlen hbytes hfit
  obtain ⟨v, hv⟩ : ∃ v, smallestVersion (modeOfText s.text) l s.textLen.toNat = some v :=
    Option.ne_none_iff_exists'.1 fun hnone => (smallestVersion_eq_none_iff.1 hnone .v3).not_ge hfit
  have hchars := charsOk_foldText_modeOfText (t := s.text) (List.forall_mem_map.2 fun i hi =>
    hbytes i (List.mem_range.1 hi))
  obtain ⟨hbad, -⟩ | ⟨t, heq, ⟨hsel, hwin, hout, hformat⟩⟩ := encodeStage_selected hl hlen hv
  · simp [hchars] at hbad
  · have hstatus := encodeStage_changesOutputsOnly lc s
    rw [heq] at hstatus
    obtain ⟨-, herr, hcode⟩ := hstatus.status
    refine ⟨t.complete, congrArg StageResult.finish heq, rfl, herr, hcode, rfl, hout, hwin, ?_, ?_, ?_, hformat⟩
    all_goals simp [hsel, hv]

/-- Settles O45: by the ways ENCODE's stages can end; the completion step then sets ERR only at a fault. -/
theorem encodeFaultsLeaveNoOutput : Obligations.EncodeFaultsLeaveNoOutput := by
  intro lc s t hs ht herr
  have hstatus := (encodeStage_changesOutputsOnly lc s).status
  rw [exec_eq_finish, stageOf] at ht
  obtain ⟨c, u, heq, hc, hout⟩ | ⟨u, x, heq, -⟩ := encodeStage_cases lc s
  all_goals
    rw [heq] at ht hstatus
    obtain ⟨hdone, hkept, -⟩ := hstatus
    cases ht
  · exact ⟨hc.imp (congrArg some) (Or.imp (congrArg some) (congrArg some)), hout, hdone⟩
  · cases (hkept.trans hs).symm.trans herr

end Sys2Proof.Machine

namespace Sys2Proof.Machine

/-! ### No step stops (rules R300, R308, R311) -/

/-- Settles O8: a step is a move of the host, a command, which always completes, or the fault of an illegal word. -/
theorem noStepStops : Obligations.NoStepStops := by
  intro s
  obtain ⟨-, heq⟩ | ⟨f, -, -, heq⟩ | ⟨f, i, -, -, -, heq⟩ | ⟨f, e, -, -, -, heq⟩ := step_cases s <;> rw [heq]
  · exact ⟨s.hostMove, rfl⟩
  · exact ⟨s.hostMoveBusy, rfl⟩
  · obtain ⟨t, ht, -⟩ := commandsAlwaysComplete i s
    exact ⟨t, ht⟩
  · exact ⟨s.takeFault .illegalCommand, rfl⟩

/-! ### Commands that fault (rules R300, R301, R302) -/

/-- The commands that can raise a fault of each code (rule R301). -/
def FaultCode.RaisedBy (c : FaultCode) (i : Instr) : Prop :=
  match c with
  | .capacityExceeded => (∃ lc, i = .select lc) ∨ i = .bitstr ∨ ∃ lc, i = .encode lc
  | .invalidCharacter => i = .bitstr ∨ ∃ lc, i = .encode lc
  | .invalidLevel => (∃ lc, i = .select lc) ∨ ∃ lc, i = .encode lc
  | .tableInconsistency => i = .build
  | .illegalCommand => False
  | .illegalOperand => (∃ a, i = .gflog a) ∨ ∃ k e, i = .rsenc k e
  | .sequenceError => i = .bitstr ∨ i = .eccil ∨ i = .build ∨ i = .masksc ∨ i = .fmt

/-- A fault in the stage result r of the command i has one of the command's codes and the state s, which the stage
found. -/
def StageResult.FaultsInPlace (r : StageResult) (i : Instr) (s : State) : Prop :=
  ∀ c u, r = .fault c u → c.RaisedBy i ∧ u = s

theorem StageResult.faultsInPlace_ok {i : Instr} {s t : State} : (StageResult.ok t).FaultsInPlace i s := by
  rintro _ _ ⟨⟩

theorem StageResult.faultsInPlace_fault {i : Instr} {s : State} {c : FaultCode} (h : c.RaisedBy i) :
    (StageResult.fault c s).FaultsInPlace i s := by
  rintro _ _ ⟨⟩
  exact ⟨h, rfl⟩

section FaultsInPlace

open StageResult

theorem gflogStage_faultsInPlace (a : Byte) (s : State) : (gflogStage a s).FaultsInPlace (.gflog a) s := by
  obtain ⟨-, heq⟩ | ⟨-, heq⟩ := gflogStage_cases a s <;> rw [heq]
  · exact faultsInPlace_fault (.inl ⟨a, rfl⟩)
  · exact faultsInPlace_ok

theorem rsencStage_faultsInPlace (k e : Byte) (s : State) : (rsencStage k e s).FaultsInPlace (.rsenc k e) s := by
  obtain ⟨-, heq⟩ | ⟨-, -, heq⟩ := rsencStage_cases k e s <;> rw [heq]
  · exact faultsInPlace_fault (.inr ⟨k, e, rfl⟩)
  · exact faultsInPlace_ok

theorem selectStage_faultsInPlace (lc : Byte) (s : State) : (selectStage lc s).FaultsInPlace (.select lc) s := by
  obtain ⟨-, heq⟩ | ⟨l, -, -, heq⟩ | ⟨l, -, -, -, heq⟩ | ⟨l, v, -, -, -, heq⟩ := selectStage_cases lc s <;> rw [heq]
  · exact faultsInPlace_fault (.inl ⟨lc, rfl⟩)
  · exact faultsInPlace_fault (.inl ⟨lc, rfl⟩)
  · exact faultsInPlace_fault (.inl ⟨lc, rfl⟩)
  · exact faultsInPlace_ok

theorem bitstrStage_faultsInPlace (s : State) : (bitstrStage s).FaultsInPlace .bitstr s := by
  obtain ⟨-, heq⟩ | ⟨v, -, -, heq⟩ | ⟨v, -, -, -, heq⟩ | ⟨v, -, -, -, -, heq⟩ | ⟨v, bs, pre, -, -, -, -, heq⟩ :=
    bitstrStage_cases s <;> rw [heq]
  · exact faultsInPlace_fault (.inl rfl)
  · exact faultsInPlace_fault (.inr (.inl rfl))
  · exact faultsInPlace_fault (.inl rfl)
  · exact faultsInPlace_fault (.inr (.inl rfl))
  · exact faultsInPlace_ok

theorem eccilStage_faultsInPlace (s : State) : (eccilStage s).FaultsInPlace .eccil s := by
  obtain ⟨-, heq⟩ | ⟨v, -, heq⟩ := eccilStage_cases s <;> rw [heq]
  · exact faultsInPlace_fault (.inr (.inl rfl))
  · exact faultsInPlace_ok

theorem buildStage_faultsInPlace (s : State) : (buildStage s).FaultsInPlace .build s := by
  obtain ⟨-, heq⟩ | ⟨v, -, -, heq⟩ | ⟨v, -, -, heq⟩ := buildStage_cases s <;> rw [heq]
  · exact faultsInPlace_fault (.inr (.inr (.inl rfl)))
  · exact faultsInPlace_fault rfl
  · exact faultsInPlace_ok

theorem maskscStage_faultsInPlace (s : State) : (maskscStage s).FaultsInPlace .masksc s := by
  obtain ⟨-, heq⟩ | ⟨v, -, heq⟩ := maskscStage_cases s <;> rw [heq]
  · exact faultsInPlace_fault (.inr (.inr (.inr (.inl rfl))))
  · exact faultsInPlace_ok

theorem fmtStage_faultsInPlace (s : State) : (fmtStage s).FaultsInPlace .fmt s := by
  obtain ⟨-, heq⟩ | ⟨v, -, -, heq⟩ := fmtStage_cases s <;> rw [heq]
  · exact faultsInPlace_fault (.inr (.inr (.inr (.inr rfl))))
  · exact faultsInPlace_ok

/-- ENCODE alone can fault in a state its completed stages have changed (rules R280, R302). -/
theorem stageOf_faultsInPlace {i : Instr} (hi : ∀ lc, i ≠ .encode lc) (s : State) :
    (stageOf i s).FaultsInPlace i s := by
  cases i with
  | nop => exact faultsInPlace_ok
  | gfmul a b => exact faultsInPlace_ok
  | gflog a => exact gflogStage_faultsInPlace a s
  | gfexp e => exact faultsInPlace_ok
  | rsenc k e => exact rsencStage_faultsInPlace k e s
  | select lc => exact selectStage_faultsInPlace lc s
  | bitstr => exact bitstrStage_faultsInPlace s
  | eccil => exact eccilStage_faultsInPlace s
  | build => exact buildStage_faultsInPlace s
  | masksc => exact maskscStage_faultsInPlace s
  | fmt => exact fmtStage_faultsInPlace s
  | encode lc => exact absurd rfl (hi lc)

end FaultsInPlace

/-- ENCODE faults with SELECT's codes or with InvalidCharacter (rule R280). -/
theorem encodeStage_fault_raisedBy {lc : Byte} {s u : State} {c : FaultCode} (h : encodeStage lc s = .fault c u) :
    c.RaisedBy (.encode lc) := by
  obtain ⟨d, w, heq, hd, -⟩ | ⟨t, x, heq, -⟩ := encodeStage_cases lc s
  · cases heq.symm.trans h
    obtain rfl | rfl | rfl := hd
    · exact .inr ⟨lc, rfl⟩
    · exact .inr (.inr ⟨lc, rfl⟩)
    · exact .inr ⟨lc, rfl⟩
  · cases heq.symm.trans h

theorem stageOf_fault_raisedBy {i : Instr} {s u : State} {c : FaultCode} (h : stageOf i s = .fault c u) :
    c.RaisedBy i := by
  by_cases hi : ∃ lc, i = .encode lc
  · obtain ⟨lc, rfl⟩ := hi
    exact encodeStage_fault_raisedBy h
  · exact (stageOf_faultsInPlace (not_exists.1 hi) s c u h).1

/-- A command that sets ERR took a fault of its stage: no stage sets ERR itself (rules R105, R300). -/
theorem exists_stageOf_fault_of_err {i : Instr} {s t : State} (hs : s.err = false) (ht : exec i s = .next t)
    (herr : t.err = true) : ∃ c u, stageOf i s = .fault c u ∧ t = u.takeFault c := by
  rw [exec_eq_finish] at ht
  obtain ⟨u, hok, rfl⟩ | hfault := StageResult.finish_cases ht
  · obtain ⟨-, hkept, -⟩ := (stageOf_changesOutputsOnly i s).status
    rw [hok] at hkept
    cases (hkept.trans hs).symm.trans herr
  · exact hfault

/-- Settles O46: the state of the fault is the one the stage found, and taking the fault records it there. -/
theorem faultsArePrecise : Obligations.FaultsArePrecise := by
  intro i s t hi hs ht herr
  obtain ⟨c, u, hfault, rfl⟩ := exists_stageOf_fault_of_err hs ht herr
  obtain ⟨-, rfl⟩ := stageOf_faultsInPlace hi s c u hfault
  exact ⟨c, rfl⟩

/-- Settles O47: the code recorded is that of the stage's fault. -/
theorem faultCodesByCommand : Obligations.FaultCodesByCommand := by
  refine ⟨⟨rfl, rfl, rfl, rfl, rfl, rfl, rfl⟩, fun i s t c hs ht herr hcode => ?_⟩
  obtain ⟨d, u, hfault, rfl⟩ := exists_stageOf_fault_of_err hs ht herr
  obtain rfl : d = c := Option.some.inj hcode
  exact stageOf_fault_raisedBy hfault

end Sys2Proof.Machine

namespace Sys2Proof.Machine

/-! ### The register map as ranges (10_state section 3, rules R83, R308) -/

/-- The twenty registers below 0x050: five of them are writable, and CTRL is the one at 0x004. -/
theorem locate_register {off : Nat} (halign : off % 4 = 0) (hlow : off < 0x050) :
    ∃ loc, locate off = some loc ∧ (loc.hostWritable = true ↔ writableOffset off) ∧ (loc = .ctrl ↔ off = 0x004) := by
  have hmapped : ∀ k < 20, locate (4 * k) ≠ none := by decide
  have hwritable : ∀ k < 20, (locate (4 * k)).any Location.hostWritable = true ↔ writableOffset (4 * k) := by decide
  have hctrl : ∀ k < 20, locate (4 * k) = some .ctrl ↔ 4 * k = 0x004 := by decide
  specialize hmapped (off / 4) (by omega)
  specialize hwritable (off / 4) (by omega)
  specialize hctrl (off / 4) (by omega)
  rw [show 4 * (off / 4) = off by omega] at hmapped hwritable hctrl
  obtain ⟨loc, hl⟩ := Option.ne_none_iff_exists'.1 hmapped
  rw [hl] at hwritable hctrl
  exact ⟨loc, hl, hwritable, Option.some_inj.symm.trans hctrl⟩

/-- Past the registers the map is that of the buffers. -/
theorem locate_past_registers {off : Nat} (halign : off % 4 = 0) (hhigh : 0x050 ≤ off) :
    locate off = (bufferAt off).map .word := by
  have hreg : ∀ n < 0x050, off ≠ n := by omega
  unfold locate
  simp [halign, hreg, show ¬ off < 0x040 by omega]

/-- A word of a buffer is mapped, and writable when its buffer is. -/
theorem mappedOffset_of_holds {b : Buffer} {off : Nat} (h : b.holds off = true) (halign : off % 4 = 0) :
    mappedOffset off ∧ (b.hostWritable = true ↔ writableOffset off) := by
  rw [Buffer.holds_iff] at h
  cases b <;>
    simp only [Buffer.start, Buffer.size, Config.textBytes, Config.dataBytes, Config.streamBytes, Config.rowCount,
      Buffer.hostWritable, reduceCtorEq, true_iff, false_iff] at h ⊢ <;>
    omega

/-- A mapped offset past the registers lies in a buffer. -/
theorem exists_holds_of_mappedOffset {off : Nat} (h : mappedOffset off) (hhigh : 0x050 ≤ off) :
    ∃ b : Buffer, b.holds off = true := by
  by_cases hw : writableOffset off
  · obtain ⟨b, -, hb, -⟩ := exists_buffer_of_writableOffset hw (by omega)
    exact ⟨b, hb⟩
  · obtain hout | hcand : (0x500 ≤ off ∧ off < 0x574) ∨ (0x600 ≤ off ∧ off < 0xA00 ∧ off % 0x80 < 0x74) := by
      omega
    · exact ⟨.out, Buffer.holds_iff.2 hout⟩
    · refine ⟨.cand ⟨(off - 0x600) / 0x80, by omega⟩, Buffer.holds_iff.2 ?_⟩
      simp only [Buffer.start, Buffer.size, Config.rowCount]
      omega

/-- What is mapped, what the host may write, and where CTRL is. -/
theorem locate_cases (off : Nat) :
    (¬ mappedOffset off ∧ locate off = none) ∨
    (mappedOffset off ∧ ∃ loc, locate off = some loc ∧ (loc.hostWritable = true ↔ writableOffset off) ∧
      (loc = .ctrl ↔ off = 0x004)) := by
  by_cases halign : off % 4 = 0
  case neg => exact .inl ⟨fun h => halign h.1, if_pos halign⟩
  obtain hlow | hhigh := lt_or_ge off 0x050
  · exact .inr ⟨⟨halign, .inl hlow⟩, locate_register halign hlow⟩
  · rw [locate_past_registers halign hhigh]
    cases hb : bufferAt off with
    | none =>
      refine .inl ⟨fun hmapped => ?_, rfl⟩
      obtain ⟨b, hheld⟩ := exists_holds_of_mappedOffset hmapped hhigh
      cases hb.symm.trans (bufferAt_eq_some_iff.2 hheld)
    | some b =>
      obtain ⟨hmapped, hwritable⟩ := mappedOffset_of_holds (bufferAt_eq_some_iff.1 hb) halign
      exact .inr ⟨hmapped, .word b, rfl, hwritable, ⟨nofun, by omega⟩⟩

/-! ### Refused and performed accesses (rules R308, R340) -/

theorem State.writePermitted_iff {s : State} {off : Nat} {loc : Location}
    (hwritable : loc.hostWritable = true ↔ writableOffset off) (hctrl : loc = .ctrl ↔ off = 0x004) :
    s.writePermitted loc = true ↔ ¬ refusedWrite s off := by
  rw [State.writePermitted, Bool.and_eq_true, Bool.or_eq_true, beq_iff_eq, hwritable, hctrl, refusedWrite, not_or, not_not]
  exact and_congr_right fun _ => by cases s.busy <;> simp

theorem State.hostRead_unmapped (s : State) {width off : Nat} (h : width ≠ 32 ∨ ¬ mappedOffset off) :
    s.hostRead width off = s.reply .busError := by
  refine s.hostRead_refused (h.imp_right fun hunmapped => ?_)
  obtain ⟨-, hl⟩ | ⟨hmapped, -⟩ := locate_cases off
  · exact hl
  · exact absurd hmapped hunmapped

/-- A read that is performed answers with a value, exact or a draw. -/
theorem State.answer_hostRead_mapped (s : State) {off : Nat} (h : mappedOffset off) :
    ∃ v, (s.hostRead 32 off).answer = some (.data v) := by
  obtain ⟨hunmapped, -⟩ | ⟨-, loc, hl, -⟩ := locate_cases off
  · exact absurd h hunmapped
  · obtain ⟨hbad, -⟩ | ⟨_, -, -, -, -, heq⟩ | ⟨_, -, -, -, heq⟩ := s.hostRead_cases 32 off
    · simp [hl] at hbad
    · exact ⟨_, congrArg State.answer heq⟩
    · exact ⟨_, congrArg State.answer heq⟩

theorem State.hostWrite_refusedWrite (s : State) {width off : Nat} (v : Word) (h : width ≠ 32 ∨ refusedWrite s off) :
    s.hostWrite width off v = s.reply .busError := by
  obtain ⟨-, heq⟩ | ⟨loc, hw, hl, hp, -⟩ := s.hostWrite_cases width off v
  · exact heq
  · obtain ⟨-, hnone⟩ | ⟨-, loc', hl', hwritable, hctrl⟩ := locate_cases off
    · cases hl.symm.trans hnone
    · cases hl.symm.trans hl'
      exact absurd (h.resolve_left (not_not.2 hw)) ((State.writePermitted_iff hwritable hctrl).1 hp)

theorem State.answer_hostWrite_performed (s : State) {off : Nat} (v : Word) (h : ¬ refusedWrite s off) :
    (s.hostWrite 32 off v).answer = some .accepted := by
  obtain ⟨hunmapped, -⟩ | ⟨-, loc, hl, hwritable, hctrl⟩ := locate_cases off
  · exact absurd (.inl fun hw => hunmapped hw.1) h
  · rw [s.hostWrite_permitted off v loc hl ((State.writePermitted_iff hwritable hctrl).2 h)]
    rfl

/-- Settles O51: the ranges are the map's, and a refusal is a reply alone. -/
theorem busErrorsChangeNothing : Obligations.BusErrorsChangeNothing := by
  refine ⟨fun s width off => ⟨s.hostRead_unmapped, ?_⟩, fun s width off v => ⟨s.hostWrite_refusedWrite v, ?_⟩⟩
  · rintro rfl hmapped
    obtain ⟨v, hv⟩ := s.answer_hostRead_mapped hmapped
    simp [hv]
  · rintro rfl
    exact s.answer_hostWrite_performed v

end Sys2Proof.Machine

namespace Sys2Proof.Machine

/-! ### A command in flight ends (rule R345) -/

theorem run_succ {s t : State} (h : step s = .next t) (k : Nat) :
    Host.Core.run Sys2Proof.core (k + 1) s = Host.Core.run Sys2Proof.core k t := by
  simp only [Host.Core.run, show Sys2Proof.core.step s = .next t from h]

/-- While BUSY an access leaves the command in flight with its latency, or abandons it: CTRL alone is writable
(rules R308, R340, R341). -/
theorem State.perform_busy {s : State} (hb : s.busy = true) (a : BusAccess) :
    (s.perform a).inflight = none ∨
      ((s.perform a).inflight = s.inflight ∧ (s.perform a).latency = s.latency) := by
  cases a with
  | read width off =>
    rcases s.hostRead_cases width off with ⟨-, heq⟩ | ⟨loc, -, -, -, -, heq⟩ | ⟨loc, -, -, -, heq⟩ <;>
      rw [State.perform, heq] <;> exact .inr ⟨rfl, rfl⟩
  | write width off v =>
    rw [State.perform]
    obtain ⟨-, heq⟩ | ⟨loc, -, -, hp, heq⟩ := s.hostWrite_cases width off v <;> rw [heq]
    · exact .inr ⟨rfl, rfl⟩
    · obtain rfl : loc = .ctrl := by simpa [State.writePermitted, hb] using (Bool.and_eq_true_iff.1 hp).2
      rw [State.performWrite, State.writeCtrl]
      split
      · exact .inl rfl
      · exact .inr ⟨rfl, rfl⟩

/-- A move of the host while BUSY uses up one of the latency, or abandons the command (rules R332, R345). -/
theorem State.hostMoveBusy_cases {s : State} (hb : s.busy = true) :
    s.hostMoveBusy.inflight = none ∨
      (s.hostMoveBusy.inflight = s.inflight ∧ s.hostMoveBusy.latency = s.latency - 1) := by
  rw [State.hostMoveBusy, State.hostMove]
  cases s.bus with
  | nil => exact .inr ⟨rfl, rfl⟩
  | cons a rest => exact State.perform_busy (s := { s with latency := s.latency - 1, bus := rest }) hb a

/-- With no latency left the step ends the flight, also that of an illegal word (rules R103, R105). -/
theorem step_last {s : State} {f : InFlight} (h : s.inflight = some f) (hl : s.latency = 0) :
    ∃ t, step s = .next t ∧ t.inflight = none := by
  obtain ⟨hi, -⟩ | ⟨_, -, hl', -⟩ | ⟨_, i, -, -, -, heq⟩ | ⟨_, _, -, -, -, heq⟩ := step_cases s
  · simp [h] at hi
  · exact absurd hl hl'
  · obtain ⟨t, ht, hnone, -⟩ := commandsAlwaysComplete i s
    exact ⟨t, heq.trans ht, hnone⟩
  · exact ⟨s.takeFault .illegalCommand, heq, rfl⟩

/-- Settles O9, by induction on the latency: each move of the host uses up one of it or abandons the command. -/
theorem acceptedCommandEnds : Obligations.AcceptedCommandEnds := by
  intro s f hf
  generalize hn : s.latency = n
  induction n generalizing s with
  | zero =>
    obtain ⟨t, hstep, hnone⟩ := step_last hf hn
    exact ⟨1, le_rfl, t, run_succ hstep 0, hnone⟩
  | succ n ih =>
    have hstep : step s = .next s.hostMoveBusy := step_waiting hf (by omega)
    obtain hnone | ⟨hsame, hless⟩ := s.hostMoveBusy_cases (by rw [State.busy, hf]; rfl)
    · exact ⟨1, by omega, s.hostMoveBusy, run_succ hstep 0, hnone⟩
    · obtain ⟨k, hk, t, hrun, hnone⟩ := ih s.hostMoveBusy (hsame.trans hf) (by omega)
      exact ⟨k + 1, by omega, t, (run_succ hstep k).trans hrun, hnone⟩

/-! ### What a command writes (rule R333) -/

/-- Every byte outside the buffers bs reads in t as it does in s. -/
def State.KeepsBytesOutside (s t : State) (bs : List Buffer) : Prop :=
  ∀ a, (∀ b ∈ bs, b.holds a = false) → t.readByte a = s.readByte a

theorem State.KeepsBytesOutside.refl (s : State) (bs : List Buffer) : s.KeepsBytesOutside s bs := fun _ _ => rfl

theorem State.KeepsBytesOutside.trans {s t u : State} {bs : List Buffer} (h : s.KeepsBytesOutside t bs)
    (h' : t.KeepsBytesOutside u bs) : s.KeepsBytesOutside u bs :=
  fun a ha => (h' a ha).trans (h a ha)

theorem State.KeepsBytesOutside.mono {s t : State} {bs cs : List Buffer} (h : s.KeepsBytesOutside t bs)
    (hsub : bs ⊆ cs) : s.KeepsBytesOutside t cs :=
  fun a ha => h a fun b hb => ha b (hsub hb)

theorem State.keepsBytesOutside_writeBytes (s : State) {b : Buffer} {vs : List Byte} {bs : List Buffer}
    (hlen : vs.length ≤ b.size) (hb : b ∈ bs) : s.KeepsBytesOutside (s.writeBytes b.start vs) bs := by
  intro a ha
  rw [State.readByte_writeBytes, if_neg]
  intro hin
  have hheld : b.holds a = true := Buffer.holds_iff.2 ⟨hin.1, by omega⟩
  exact absurd hheld (by simp [ha b hb])

theorem State.keepsBytesOutside_writeMatrix (s : State) {b : Buffer} (m : Matrix) {bs : List Buffer}
    (hm : b.isMatrix = true) (hb : b ∈ bs) : s.KeepsBytesOutside (s.writeMatrix b m) bs := by
  refine s.keepsBytesOutside_writeBytes ?_ hb
  rw [length_flatMap_rows, Buffer.size_of_isMatrix hm]

theorem cand_mem_candBuffers (m : Fin 8) : Buffer.cand m ∈ candBuffers := by
  revert m
  decide

theorem State.keepsBytesOutside_writeCandidates (s : State) (b : Matrix) (v : Version) :
    s.KeepsBytesOutside (s.writeCandidates b v) candBuffers := by
  intro a ha
  refine s.readByte_writeCandidates b v a fun m hin => ?_
  exact absurd (Buffer.holds_iff.2 hin) (by simp [ha _ (cand_mem_candBuffers m)])

theorem rsencStage_keepsBytesOutside (k e : Byte) (s : State) :
    s.KeepsBytesOutside (rsencStage k e s).state [.ecc] := by
  obtain ⟨-, heq⟩ | ⟨hk, he, heq⟩ := rsencStage_cases k e s <;> rw [heq]
  · exact .refl s _
  · refine s.keepsBytesOutside_writeBytes ?_ (List.mem_singleton_self _)
    have hmsg : s.readBuffer .data k.toNat ≠ [] := by
      refine List.ne_nil_of_length_pos ?_
      rw [State.readBuffer, State.readBytes, List.length_map, List.length_range]
      exact (messageLengthOk_iff.1 hk).1
    rw [remainderHasErrorCount _ _ _ hmsg (errorCountOk_iff.1 he)]
    exact (errorCount_le he).trans (by decide)

theorem bitstrStage_keepsBytesOutside (s : State) : s.KeepsBytesOutside (bitstrStage s).state [.data] := by
  obtain ⟨-, heq⟩ | ⟨v, -, -, heq⟩ | ⟨v, -, -, -, heq⟩ | ⟨v, -, -, -, -, heq⟩ | ⟨v, bs, pre, -, -, -, -, heq⟩ :=
    bitstrStage_cases s <;> rw [heq]
  case inr.inr.inr.inr =>
    refine s.keepsBytesOutside_writeBytes ?_ (List.mem_singleton_self _)
    rw [length_packBits]
    exact dataCodewords_le v s.sel.level
  all_goals exact .refl s _

theorem eccilStage_keepsBytesOutside (s : State) : s.KeepsBytesOutside (eccilStage s).state [.stream, .ecc] := by
  obtain ⟨-, heq⟩ | ⟨v, -, heq⟩ := eccilStage_cases s <;> rw [heq]
  · exact .refl s _
  · have hstream (bs : List Bool) : s.KeepsBytesOutside
        (s.writeBytes Buffer.stream.start (packBits bs Config.streamBytes)) [.stream, .ecc] :=
      s.keepsBytesOutside_writeBytes (length_packBits _ _).le (by simp)
    exact (hstream _).trans
      (State.keepsBytesOutside_writeBytes _ (length_errorBlocks_flatten_le v _ _ _) (by simp))

theorem buildStage_keepsBytesOutside (s : State) : s.KeepsBytesOutside (buildStage s).state [.base] := by
  obtain ⟨-, heq⟩ | ⟨v, -, -, heq⟩ | ⟨v, -, -, heq⟩ := buildStage_cases s <;> rw [heq]
  · exact .refl s _
  · exact .refl s _
  · exact s.keepsBytesOutside_writeMatrix _ rfl (List.mem_singleton_self _)

theorem State.readByte_withScores (s : State) (sc : Fin 8 → Nat) (a : Nat) :
    (s.withScores sc).readByte a = s.readByte a := rfl

theorem maskscStage_keepsBytesOutside (s : State) : s.KeepsBytesOutside (maskscStage s).state candBuffers := by
  obtain ⟨-, heq⟩ | ⟨v, hv, -⟩ := maskscStage_cases s
  · rw [heq]
    exact .refl s _
  · intro a ha
    rw [maskscStage_version hv, StageResult.state, State.readByte_withScores]
    exact s.keepsBytesOutside_writeCandidates _ v a ha

theorem fmtStage_keepsBytesOutside (s : State) : s.KeepsBytesOutside (fmtStage s).state [.out] := by
  obtain ⟨-, heq⟩ | ⟨v, -, -, heq⟩ := fmtStage_cases s <;> rw [heq]
  · exact .refl s _
  · exact s.keepsBytesOutside_writeMatrix _ rfl (List.mem_singleton_self _)

theorem selectStage_keepsBytesOutside (lc : Byte) (s : State) : s.KeepsBytesOutside (selectStage lc s).state [] := by
  obtain ⟨-, heq⟩ | ⟨l, -, -, heq⟩ | ⟨l, -, -, -, heq⟩ | ⟨l, v, -, -, -, heq⟩ := selectStage_cases lc s <;>
    rw [heq] <;> exact .refl s _

theorem gflogStage_keepsBytesOutside (a : Byte) (s : State) : s.KeepsBytesOutside (gflogStage a s).state [] := by
  obtain ⟨-, heq⟩ | ⟨-, heq⟩ := gflogStage_cases a s <;> rw [heq] <;> exact .refl s _

theorem StageResult.keepsBytesOutside_andThen {s : State} {r : StageResult} {f : State → StageResult}
    {bs : List Buffer} (h : s.KeepsBytesOutside r.state bs) (hf : ∀ t : State, t.KeepsBytesOutside (f t).state bs) :
    s.KeepsBytesOutside (r.andThen f).state bs := by
  cases r with
  | ok t => exact h.trans (hf t)
  | fault c t => exact h

/-- ENCODE writes what its stages write (rules R280, R333). -/
theorem encodeStage_keepsBytesOutside (lc : Byte) (s : State) :
    s.KeepsBytesOutside (encodeStage lc s).state (writtenBuffers (.encode lc)) := by
  have hbitstr := StageResult.keepsBytesOutside_andThen
    ((selectStage_keepsBytesOutside lc s).mono (List.nil_subset (writtenBuffers (.encode lc))))
    fun t => (bitstrStage_keepsBytesOutside t).mono (by simp [writtenBuffers])
  have heccil := StageResult.keepsBytesOutside_andThen hbitstr
    fun t => (eccilStage_keepsBytesOutside t).mono (by simp [writtenBuffers])
  have hbuild := StageResult.keepsBytesOutside_andThen heccil
    fun t => (buildStage_keepsBytesOutside t).mono (by simp [writtenBuffers])
  have hmasksc := StageResult.keepsBytesOutside_andThen hbuild
    fun t => (maskscStage_keepsBytesOutside t).mono (by simp +contextual [writtenBuffers, List.subset_def])
  exact StageResult.keepsBytesOutside_andThen hmasksc
    fun t => (fmtStage_keepsBytesOutside t).mono (by simp [writtenBuffers])

/-- A command's stage writes the buffers of its row alone (rule R333). -/
theorem stageOf_keepsBytesOutside (i : Instr) (s : State) :
    s.KeepsBytesOutside (stageOf i s).state (writtenBuffers i) := by
  cases i with
  | nop => exact .refl s _
  | gfmul a b => exact .refl s _
  | gflog a => exact gflogStage_keepsBytesOutside a s
  | gfexp e => exact .refl s _
  | rsenc k e => exact rsencStage_keepsBytesOutside k e s
  | select lc => exact selectStage_keepsBytesOutside lc s
  | bitstr => exact bitstrStage_keepsBytesOutside s
  | eccil => exact eccilStage_keepsBytesOutside s
  | build => exact buildStage_keepsBytesOutside s
  | masksc => exact maskscStage_keepsBytesOutside s
  | fmt => exact fmtStage_keepsBytesOutside s
  | encode lc => exact encodeStage_keepsBytesOutside lc s

/-- CTRL, CMD, LAST_OP, TEXT_LEN and the model's own fields are no outputs (rule R333). -/
theorem State.ChangesOutputsOnly.unwritten {s t : State} (h : s.ChangesOutputsOnly t) :
    t.rsClean = s.rsClean ∧ t.cmd = s.cmd ∧ t.lastOp = s.lastOp ∧ t.textLen = s.textLen ∧ t.epochs = s.epochs ∧
      t.draws = s.draws ∧ t.latency = s.latency ∧ t.bus = s.bus ∧ t.answer = s.answer :=
  ⟨(congrArg State.rsClean h :), (congrArg State.cmd h :), (congrArg State.lastOp h :),
    (congrArg State.textLen h :), (congrArg State.epochs h :), (congrArg State.draws h :),
    (congrArg State.latency h :), (congrArg State.bus h :), (congrArg State.answer h :)⟩

/-- Settles O48: the stage writes its buffers and outputs alone, and the completion step touches neither memory nor
the registers named. -/
theorem commandsKeepOtherState : Obligations.CommandsKeepOtherState := by
  intro i s t ht
  have hbytes := stageOf_keepsBytesOutside i s
  have hregs := (stageOf_changesOutputsOnly i s).unwritten
  rw [exec_eq_finish] at ht
  obtain ⟨u, hu, rfl⟩ | ⟨c, u, hu, rfl⟩ := StageResult.finish_cases ht <;> rw [hu] at hbytes hregs <;>
    exact ⟨hbytes, hregs⟩

/-! ### Reads while BUSY (rule R342) -/

theorem exactWhileBusy_iff {off : Nat} {loc : Location} (hl : locate off = some loc) :
    loc.exactWhileBusy = true ↔ exactOffset off := by
  have halign : off % 4 = 0 := by
    by_contra hodd
    cases hl.symm.trans (if_pos hodd)
  obtain hlow | hhigh := lt_or_ge off 0x050
  · have hregs : ∀ k < 20, (locate (4 * k)).any Location.exactWhileBusy = true ↔ exactOffset (4 * k) := by decide
    have hreg := hregs (off / 4) (by omega)
    rw [show 4 * (off / 4) = off by omega, hl] at hreg
    exact hreg
  · rw [locate_past_registers halign hhigh] at hl
    obtain ⟨b, -, rfl⟩ := Option.map_eq_some_iff.1 hl
    exact ⟨nofun, by omega⟩

/-- Settles O52: the exact locations are those of the four offsets, and a read of any other is a draw. -/
theorem busyReadsAreDraws : Obligations.BusyReadsAreDraws := by
  intro s f off hf hmapped
  refine ⟨fun hfree => ?_, ?_, ?_, ?_, ?_⟩
  · obtain ⟨hunmapped, -⟩ | ⟨-, loc, hl, -⟩ := locate_cases off
    · exact absurd hmapped hunmapped
    · have hb : s.busy = true := by rw [State.busy, hf]; rfl
      exact s.hostRead_draw off loc hb hl (eq_false_of_ne_true fun he => hfree ((exactWhileBusy_iff hl).1 he))
  · rintro rfl
    exact s.hostRead_exact _ .id rfl rfl
  · rintro rfl
    exact s.hostRead_exact _ .ctrl rfl rfl
  · rintro rfl
    exact s.hostRead_exact _ .status rfl rfl
  · rintro rfl
    exact s.hostRead_exact _ .cmd rfl rfl

/-! ### Soft reset (rules R330, R332, R333) -/

/-- Whether a new draw for the cells of b is one for those of c: TEXT has no draw, and the candidates have one
together (rules R330, R333). -/
def Buffer.redraws (b c : Buffer) : Bool :=
  match b, c with
  | .text, _ => false
  | .cand _, .cand _ => true
  | b, c => b == c

theorem Epochs.of_bump (e : Epochs) (b c : Buffer) :
    (e.bump b).of c = e.of c + if b.redraws c then 1 else 0 := by
  cases b <;> cases c <;> rfl

theorem State.epochs_unspecifyAll (s : State) (bs : List Buffer) (c : Buffer) :
    (s.unspecifyAll bs).epochs.of c = s.epochs.of c + bs.countP fun b => b.redraws c := by
  unfold State.unspecifyAll
  induction bs generalizing s with
  | nil => rfl
  | cons b bs ih => rw [List.foldl_cons, ih, State.unspecify_epochs, Epochs.of_bump, List.countP_cons]; omega

/-- Making buffers unspecified lists no cell that was not listed. -/
theorem State.lookup_unspecifyAll_of_none {s : State} {a : Nat} (h : Memory.lookup s.mem a = none) (bs : List Buffer) :
    Memory.lookup (s.unspecifyAll bs).mem a = none := by
  unfold State.unspecifyAll
  induction bs generalizing s with
  | nil => exact h
  | cons b bs ih => exact ih (by rw [State.lookup_unspecify, h, ite_self])

/-- No cell of a buffer made unspecified is listed (rule R332). -/
theorem State.lookup_unspecifyAll_of_mem {s : State} {bs : List Buffer} {b : Buffer} {a : Nat} (hb : b ∈ bs)
    (ha : b.holds a = true) : Memory.lookup (s.unspecifyAll bs).mem a = none := by
  induction bs generalizing s with
  | nil => cases hb
  | cons c bs ih =>
    obtain rfl | hb := List.mem_cons.1 hb
    · refine State.lookup_unspecifyAll_of_none ?_ bs
      rw [State.lookup_unspecify, if_pos (Buffer.holds_iff.1 ha)]
    · exact ih (s := s.unspecify c) hb

theorem State.mem_abandoned_iff {s : State} {b : Buffer} :
    b ∈ s.abandoned ↔ ∃ f i, s.inflight = some f ∧ decode f.word = .ok i ∧ b ∈ writtenBuffers i := by
  unfold State.abandoned writtenBuffersOfWord
  cases s.inflight with
  | none => simp
  | some f => cases hd : decode f.word <;> simp [hd]

theorem text_notMem_writtenBuffers (i : Instr) : Buffer.text ∉ writtenBuffers i := by
  cases i <;> simp [writtenBuffers, candBuffers]

/-- A command writes all the candidates or none. -/
theorem cand_mem_writtenBuffers {i : Instr} {m : Fin 8} (h : .cand m ∈ writtenBuffers i) (n : Fin 8) :
    .cand n ∈ writtenBuffers i := by
  have hn := cand_mem_candBuffers n
  cases i with
  | masksc => exact hn
  | encode lc => exact List.mem_append_left _ (List.mem_append_right _ hn)
  | _ => simp [writtenBuffers] at h

/-- New draws for the buffers a command writes are draws of exactly those buffers (rules R330, R333). -/
theorem mem_writtenBuffers_iff_redraws {i : Instr} {c : Buffer} :
    c ∈ writtenBuffers i ↔ ∃ b ∈ writtenBuffers i, b.redraws c = true := by
  constructor
  · intro hc
    refine ⟨c, hc, ?_⟩
    cases c with
    | text => exact absurd hc (text_notMem_writtenBuffers i)
    | _ => rfl
  · rintro ⟨b, hb, hr⟩
    cases b with
    | text => cases hr
    | cand m =>
      cases c with
      | cand n => exact cand_mem_writtenBuffers hb n
      | _ => cases hr
    | _ => exact eq_of_beq hr ▸ hb

/-- The abandoned command moves on the draws of its buffers alone (rules R330, R333). -/
theorem State.abandoned_redraws_iff {s : State} {c : Buffer} :
    0 < s.abandoned.countP (fun b => b.redraws c) ↔ c ∈ s.abandoned := by
  rw [List.countP_pos_iff]
  constructor
  · rintro ⟨b, hb, hr⟩
    obtain ⟨f, i, hf, hd, hmem⟩ := State.mem_abandoned_iff.1 hb
    exact State.mem_abandoned_iff.2 ⟨f, i, hf, hd, mem_writtenBuffers_iff_redraws.2 ⟨b, hmem, hr⟩⟩
  · intro hc
    obtain ⟨f, i, hf, hd, hmem⟩ := State.mem_abandoned_iff.1 hc
    obtain ⟨b, hb, hr⟩ := mem_writtenBuffers_iff_redraws.1 hmem
    exact ⟨b, State.mem_abandoned_iff.2 ⟨f, i, hf, hd, hb⟩, hr⟩

theorem State.unspecifyAll_abandoned_idle {s : State} (hi : s.inflight = none) :
    s.unspecifyAll s.abandoned = s := by
  rw [State.abandoned, hi]
  rfl

/-- A cell outside the abandoned buffers, listed or unspecified, reads as before (rules R330, R332). -/
theorem State.readByte_unspecifyAll_abandoned (s : State) {a : Nat} (h : ∀ b ∈ s.abandoned, b.holds a = false) :
    (s.unspecifyAll s.abandoned).readByte a = s.readByte a := by
  have hunlisted : unlistedByte (s.unspecifyAll s.abandoned).epochs a = unlistedByte s.epochs a := by
    unfold unlistedByte
    cases hc : bufferAt a with
    | none => rfl
    | some c =>
      have hout : c ∉ s.abandoned := fun hmem => by simpa [bufferAt_eq_some_iff.1 hc] using h c hmem
      have hcount := mt State.abandoned_redraws_iff.1 hout
      simp only [State.epochs_unspecifyAll, Nat.eq_zero_of_not_pos hcount, Nat.add_zero]
  rw [State.readByte, State.readByte, State.lookup_unspecifyAll s _ a h, hunlisted]

/-- A soft reset is the power-on reset but for the buffers, their draws and the host's side (rules R331, R332). -/
theorem State.softReset_eq (s : State) :
    s.softReset =
      { State.reset with
        mem := (s.unspecifyAll s.abandoned).mem
        epochs := (s.unspecifyAll s.abandoned).epochs
        draws := s.draws
        bus := s.bus
        answer := s.answer } := by
  rw [State.softReset, State.unspecifyAll_eq]
  rfl

/-- Settles O58: the buffers made unspecified are those of the abandoned command, none of them TEXT, and the rest of
the state is that of the power-on reset. -/
theorem softResetClearsRegisters : Obligations.SoftResetClearsRegisters := by
  intro s w hw
  have hwrite : s.hostWrite 32 0x004 w = s.softReset.reply .accepted := by
    rw [s.hostWrite_permitted 0x004 w .ctrl rfl s.writePermitted_ctrl, State.performWrite, State.writeCtrl, if_pos hw]
  rw [State.softReset_eq] at hwrite
  refine ⟨_, hwrite, rfl, ?_, ?_, ?_, ?_⟩
  · intro hi
    have hsame := State.unspecifyAll_abandoned_idle hi
    exact ⟨(congrArg State.mem hsame :), (congrArg State.epochs hsame :)⟩
  · intro a ha
    have hout : ∀ b ∈ s.abandoned, b.holds a = false := by
      intro b hb
      obtain ⟨f, i, hf, hd, hmem⟩ := State.mem_abandoned_iff.1 hb
      exact ha f i b hf hd hmem
    exact ⟨s.lookup_unspecifyAll s.abandoned a hout, s.readByte_unspecifyAll_abandoned hout⟩
  · intro a hlow hhigh
    refine s.readByte_unspecifyAll_abandoned fun b hb => eq_false_of_ne_true fun hheld => ?_
    obtain ⟨f, i, -, -, hmem⟩ := State.mem_abandoned_iff.1 hb
    have htext : Buffer.text.holds a = true := Buffer.holds_iff.2 ⟨hlow, hhigh⟩
    exact text_notMem_writtenBuffers i (Buffer.eq_of_holds hheld htext ▸ hmem)
  · intro f i b hf hd hmem
    have hb : b ∈ s.abandoned := State.mem_abandoned_iff.2 ⟨f, i, hf, hd, hmem⟩
    have hlater : s.epochs.of b < (s.unspecifyAll s.abandoned).epochs.of b := by
      rw [State.epochs_unspecifyAll]
      exact Nat.lt_add_of_pos_right (State.abandoned_redraws_iff.2 hb)
    exact ⟨hlater, fun a ha => State.lookup_unspecifyAll_of_mem hb ha⟩

end Sys2Proof.Machine
